-- ==== Sys2Proof/Word.lean ====
section
/-! DEFINITION. The engine's value types (spec/00_scope.md R8) and nothing else: every operation that a test could
show wrong lives in Decode.lean or under Machine/. -/

namespace Sys2Proof

/-- `word`: unsigned 32-bit (R8). Its `+` is the wrapping addition modulo 2^32 of R9. -/
abbrev Word := BitVec 32

/-- `byte`: unsigned 8-bit (R8); bit 7 is the most significant (R56). -/
abbrev Byte := BitVec 8

/-- `len61`: the unsigned 61-bit byte counter (R8, R28). -/
abbrev Len61 := BitVec 61

/-- `u64`: the type of the length field (R8, R53). -/
abbrev U64 := BitVec 64

/-- A command word or a response word of the port: 16 bits (R70, R71). -/
abbrev PortWord := BitVec 16

/-- A block: 64 bytes, offset 0 first (R78). -/
abbrev Block := Vector Byte 64

/-- The hash state `Hs`: five words, `Hs[j]` the document's h_j (R13, R22). -/
abbrev HashState := Vector Word 5

/-- The message schedule of one block: W[0..79] (R31). -/
abbrev Schedule := Vector Word 80

/-- The digest: 20 bytes, index 0 first (R32). -/
abbrev DigestBytes := Vector Byte 20

end Sys2Proof
end

