-- ==== Sys2Proof/Syntax.lean ====
section
/-! DEFINITION. The five host commands (spec/opcode_table.json, spec/30_encoding.md R72). The sixth shape of R74's
`Cmd`, ILLEGAL, is no command of the table: it is what the decoder answers for every other word (Decode.lean). -/

namespace Sys2Proof

/-- One constructor per row of the opcode table. -/
inductive Instr where
  /-- STATUS (R152). -/
  | status
  /-- INIT (R153). -/
  | init
  /-- ABSORB b (R154): `b` is the ARG byte. -/
  | absorb (b : Byte)
  /-- FINAL (R155). -/
  | final
  /-- READ i (R156): `i = zext(cmd[7:0])`, "a natural in 0..255" (R73); the bound is checked in WellFormed.lean. -/
  | read (i : Nat)
deriving DecidableEq, Repr

end Sys2Proof
end

