-- ==== Sys2Proof/WellFormed.lean ====
section
/-! DEFINITION. Which instructions a command word can spell: the one operand whose type is wider than its field is
READ's index, a natural in 0..255 (spec/30_encoding.md R73). -/

namespace Sys2Proof

/-- The instruction has a command word. An index of 20 to 255 IS well formed: it decodes, and is rejected when it is
performed (R76). -/
def WellFormed : Instr → Bool
  | .status => true
  | .init => true
  | .absorb _ => true
  | .final => true
  | .read i => decide (i < 256)

end Sys2Proof
end

