-- ==== Sys2Proof/Decode.lean ====
section
/-! DEFINITION. The command word (spec/30_encoding.md R70 to R76): the decoder, total on the 65536 words and rejecting
by name, and after it the encoder, written from the same table (R72). -/

namespace Sys2Proof

/-- Why a word is ILLEGAL (R75). Both kinds are rejected with the same cause, ILLEGAL_CMD. -/
inductive Reserved where
  /-- OP in `0x05..0xFF`. -/
  | unassignedOp (op : BitVec 8)
  /-- OP in {`0x00`, `0x01`, `0x03`} with ARG not zero. -/
  | argNotZero (op arg : BitVec 8)
deriving DecidableEq, Repr

/-- The result of decoding: R74's `Cmd`, whose sixth shape ILLEGAL carries the reason. -/
inductive Cmd where
  | instr (i : Instr)
  | illegal (why : Reserved)
deriving DecidableEq, Repr

/-- OP, bits 15:8 of a command word (R70). -/
def opField (w : PortWord) : BitVec 8 := w.extractLsb' 8 8

/-- ARG, bits 7:0 of a command word (R70). -/
def argField (w : PortWord) : BitVec 8 := w.extractLsb' 0 8

/-- A command whose ARG must be zero (R72): STATUS, INIT and FINAL. -/
def decodeNoArg (i : Instr) (op arg : BitVec 8) : Cmd :=
  if arg = 0 then .instr i else .illegal (.argNotZero op arg)

/-- `Decode` (R74). -/
def decode (w : PortWord) : Cmd :=
  let op := opField w
  let arg := argField w
  if op = 0x00 then decodeNoArg .status op arg
  else if op = 0x01 then decodeNoArg .init op arg
  else if op = 0x02 then .instr (.absorb arg)
  else if op = 0x03 then decodeNoArg .final op arg
  else if op = 0x04 then .instr (.read arg.toNat)
  else .illegal (.unassignedOp op)

/-- The OP byte of each command (R72). -/
def opOf : Instr → BitVec 8
  | .status => 0x00
  | .init => 0x01
  | .absorb _ => 0x02
  | .final => 0x03
  | .read _ => 0x04

/-- The ARG byte of each command (R72, R73). -/
def argOf : Instr → BitVec 8
  | .status => 0x00
  | .init => 0x00
  | .absorb b => b
  | .final => 0x00
  | .read i => BitVec.ofNat 8 i

/-- The command word of a well-formed instruction: `{OP, ARG}` (R70); of an ill-formed READ it keeps the low byte of the
index (log entry 12). -/
def encode (i : Instr) : PortWord := opOf i ++ argOf i

/-- The command word that a table row of `nbits` bits stands for: bit 0 is its least significant bit, and every bit at or
above `nbits` is 0. A command is one 16-bit word (R70). -/
def tableWord (nbits w : Nat) : PortWord := BitVec.ofNat 16 (w % 2 ^ nbits)

/-- The instruction the decoder reads from a word numbered as spec/opcode_table.json numbers it; none for an illegal
word and for a row wider than the one command format. -/
def decodeTableWord (nbits w : Nat) : Option Instr :=
  if nbits ≤ 16 then
    match decode (tableWord nbits w) with
    | .instr i => some i
    | .illegal _ => none
  else none

end Sys2Proof
end

