-- ==== Sys2Proof/Machine/State.lean ====
section
/-! DEFINITION. The engine's state as plain data (spec/10_state.md), the state after reset, and the reasons a step can
stop. The schedule W, the working variables a..e and temp are not state between commands (R23, R24, R31, R39; log entry
5); there is no address space, so no memory list (R34, R50, R62; log entry 6). -/

namespace Sys2Proof.Machine

/-- The four values of the 2-bit register PHASE (R21). -/
inductive Phase where
  /-- No computation has been started since reset. -/
  | idle
  /-- A computation is open. -/
  | absorbing
  /-- DIGEST holds a digest that can be read. -/
  | done
  /-- A command was rejected. -/
  | failed
deriving DecidableEq, Repr

/-- The values of the 3-bit register CAUSE that exist (R26); codes 5 to 7 are never produced (U4). -/
inductive Cause where
  | none
  | illegalCmd
  | badPhase
  | badIndex
  | lenOverflow
deriving DecidableEq, Repr

/-- Everything the host can do to the engine (R201). -/
inductive HostAction where
  /-- Issue one command word, any word at all. -/
  | command (w : PortWord)
  /-- Assert reset between two commands. -/
  | reset
deriving DecidableEq, Repr

/-- The engine, with the two ends of its port. -/
structure State where
  /-- PHASE (R21). -/
  phase : Phase
  /-- CAUSE (R26). -/
  cause : Cause
  /-- H[0..4] (R22). -/
  h : HashState
  /-- LEN (R28). -/
  len : Len61
  /-- BUF[0..63] (R30). -/
  buf : Block
  /-- DIGEST[0..19] (R32). -/
  digest : DigestBytes
  /-- What the host will do, next action first (the model's own: log entry 1). -/
  host : List HostAction
  /-- The response words given so far, oldest first (the model's own: log entry 1). -/
  rsps : List PortWord
  /-- How many reset actions have been performed: it keeps the free values of two resets apart (the
  model's own: log entry 4). -/
  resets : Nat
deriving DecidableEq, Repr

/-- Reasons to stop with a fault: there are none. Every command word in every phase has a defined outcome (R151;
93_implementation_defined.md, end of part 1), and a rejection is a next state (R176). No meaning raises a fault; safe. -/
inductive Fault
deriving DecidableEq, Repr

/-- Reasons to give an instruction no meaning. -/
inductive Refusal where
  /-- An arm of exec whose instruction has no meaning yet. No arm of this model raises it; safe. -/
  | notModelled (mnemonic : String)
deriving DecidableEq, Repr

/-- The outcome of a meaning or of a step. -/
abbrev Result := Host.Outcome State Fault Refusal

/-- The state after reset and at power-up (R190, R191, R194): PHASE = IDLE and CAUSE = 0 as the spec says. The spec gives
H, LEN, BUF and DIGEST no value; they are zero here by DESIGN CHOICE (log entry 3, unsafe), and no statement rests on it.
The host has offered nothing and no response has been given (DESIGN CHOICE, log entry 1). -/
def State.reset : State where
  phase := .idle
  cause := .none
  h := Vector.replicate 5 0
  len := 0
  buf := Vector.replicate 64 0
  digest := Vector.replicate 20 0
  host := []
  rsps := []
  resets := 0

end Sys2Proof.Machine
end

