-- ==== Sys2Proof/Config.lean ====
section
/-! DEFINITION. The values the spec leaves open. There is one kind: what H, LEN, BUF and DIGEST hold after a reset
("left with unspecified values", spec/70_reset_and_hazards.md R190; "any value", spec/93_implementation_defined.md U6).
Each is an opaque constant with no body, applied to the whole state the reset finds, so nothing can be proved of its value:
a reset that keeps a register, one that clears it and one that scrambles it all fit, as R41 and D20 ask (log entry 4). What
the hardware fixes (IV, K, the lengths; R5, R6, R16) stands with the operation that uses it. The other open parameter,
`T_cmd`, is read by no rule (R199) and has no place here. -/

namespace Sys2Proof

/-- What H[0..4] hold after a reset that finds the engine in state `s`. -/
opaque Config.resetHash (s : Machine.State) : HashState

/-- What LEN holds after a reset that finds the engine in state `s`. -/
opaque Config.resetLen (s : Machine.State) : Len61

/-- What BUF[0..63] hold after a reset that finds the engine in state `s`. -/
opaque Config.resetBuf (s : Machine.State) : Block

/-- What DIGEST[0..19] hold after a reset that finds the engine in state `s`. -/
opaque Config.resetDigest (s : Machine.State) : DigestBytes

end Sys2Proof
end

