-- ==== Sys2Proof/Machine/Operands.lean ====
section
/-! DEFINITION. Word rotation, the big-endian conversions and the slices of byte sequences (spec/00_scope.md R7 to R11,
spec/20_memory.md R51 to R54). Byte order is decided here and nowhere else. -/

namespace Sys2Proof.Machine

/-- `rotl(x, n)` for 0 < n < 32 (R9); the engine uses n = 1, 5 and 30 only (beyond: log entry 12). -/
def rotl (x : Word) (n : Nat) : Word := (x <<< n) ||| (x >>> (32 - n))

/-- `be32(x)`: most significant byte first (R10). -/
def be32 (x : Word) : Vector Byte 4 :=
  #v[x.extractLsb' 24 8, x.extractLsb' 16 8, x.extractLsb' 8 8, x.extractLsb' 0 8]

/-- `be64(L)`: most significant byte first (R10). -/
def be64 (l : U64) : Vector Byte 8 :=
  #v[l.extractLsb' 56 8, l.extractLsb' 48 8, l.extractLsb' 40 8, l.extractLsb' 32 8,
     l.extractLsb' 24 8, l.extractLsb' 16 8, l.extractLsb' 8 8, l.extractLsb' 0 8]

/-- `word_be` of four bytes, the first the most significant (R10). -/
def wordBe (b0 b1 b2 b3 : Byte) : Word := b0 ++ b1 ++ b2 ++ b3

/-- `MemRead(B+4j, 4)` on a block (R12, R52). -/
def blockWord (B : Block) (j : Fin 16) : Word :=
  wordBe B[4 * j.val] B[4 * j.val + 1] B[4 * j.val + 2] B[4 * j.val + 3]

/-- `zeros(k)` (R8). -/
def zeros (k : Nat) : List Byte := List.replicate k 0

/-- `P[off..off+64)` as a block (R8, R100), for `off + 64 ≤ |P|`. Every caller keeps to that domain; the 0 beyond the end
is never used (log entry 12). -/
def blockAt (P : List Byte) (off : Nat) : Block := Vector.ofFn fun k => P.getD (off + k.val) 0

/-- `LEN × 8 = {LEN, 0b000}`, which cannot overflow (R11). -/
def bitLength (len : Len61) : U64 := len ++ 0#3

/-- `LEN mod 64 = LEN[5:0]`: how many bytes BUF holds (R11, R28). -/
def pending (len : Len61) : Nat := len.toNat % 64

theorem pending_lt (len : Len61) : pending len < 64 := Nat.mod_lt _ (by decide)

end Sys2Proof.Machine
end

