-- ==== Sys2Proof/Machine/Blocks.lean ====
section
/-! DEFINITION. Block splitting and the message schedule (spec/41_block_schedule.md R100 to R103). The schedule is a
local value of one compression (R31), built whole before the rounds, as the document does (U15). -/

namespace Sys2Proof.Machine

/-- `Blocks(P)`: block i is `P[64i..64i+64)`, in increasing order of i (R100); for |P| a multiple of 64 (beyond: log
entry 12). -/
def blocks (P : List Byte) : List Block :=
  (List.range (P.length / 64)).map fun i => blockAt P (64 * i)

/-- `Words(B)`: W[0..15] (R101). -/
def words (B : Block) : Vector Word 16 := Vector.ofFn (blockWord B)

/-- W[0..16+n), the schedule after n steps of the expansion (R102): with i = 16 + n,
`W[i] <- rotl(W[i-3] XOR W[i-8] XOR W[i-14] XOR W[i-16], 1)`. -/
def expand (B : Block) : (n : Nat) → Vector Word (16 + n)
  | 0 => words B
  | n + 1 =>
    let W := expand B n
    W.push (rotl (W[16 + n - 3] ^^^ W[16 + n - 8] ^^^ W[16 + n - 14] ^^^ W[16 + n - 16]) 1)

/-- `Schedule(B)`: W[0..79] (R103). -/
def schedule (B : Block) : Schedule := expand B 64

end Sys2Proof.Machine
end

