-- ==== Sys2Proof/Machine/Padding.lean ====
section
/-! DEFINITION. The padding family (spec/40_padding.md R90 to R95): pure functions that read no engine state. `Tail` is the
form FINAL uses; `Pad` is the document's function, which the engine never builds as a whole (C4). -/

namespace Sys2Proof.Machine

/-- A message in the domain of `Pad` and `Digest`: fewer than 2^61 bytes. Longer ones have no padding (R91, U8). -/
structure Message where
  bytes : List Byte
  bounded : bytes.length < 2 ^ 61
deriving DecidableEq, Repr

/-- `|m|` as the 61-bit number that LEN counts (R28); it fits, by the bound. -/
def Message.len (m : Message) : Len61 := BitVec.ofNatLT m.bytes.length m.bounded

/-- `Zpad(n) = (55 - n) mod 64`, the non-negative remainder (R11, R90). -/
def zpad (n : Nat) : Nat := (119 - n % 64) % 64

/-- The pad marker (R5, R56). -/
def padMarker : Byte := 0x80

/-- `G(m) = [0x80] ++ zeros(Zpad(|m|)) ++ be64(8 |m|)`: what `Pad` appends to a message of n bytes (R91, R140). A length of
2^61 bytes or more cannot be given: the spec states no length field for it and none is to be assumed (R93, N3; log entry
13). -/
def padding (n : Len61) : List Byte :=
  [padMarker] ++ zeros (zpad n.toNat) ++ (be64 (bitLength n)).toList

/-- `Pad(m)` (R91). -/
def pad (m : Message) : List Byte := m.bytes ++ padding m.len

/-- `NB(m)`: the number of blocks of `Pad(m)` (R92). -/
def blockCount (n : Nat) : Nat := (n + 8) / 64 + 1

/-- `Tail(r, buf, n)` (R95), for r < 64, a sequence of at least r bytes, and n mod 64 = r; FINAL gives it BUF and LEN
(beyond that domain: log entry 12). -/
def tail (r : Nat) (buf : List Byte) (n : Len61) : List Byte :=
  buf.take r ++ [padMarker] ++ zeros ((119 - r) % 64) ++ (be64 (bitLength n)).toList

end Sys2Proof.Machine
end

