-- ==== Sys2Proof/Machine/Rounds.lean ====
section
/-! DEFINITION. The 80 rounds of mixing (spec/42_rounds.md R110 to R119). The round index is a `Fin 80`: no function here
is asked about a round that does not exist. -/

namespace Sys2Proof.Machine

/-- The working variables (R23), a local value of one compression. -/
structure Working where
  a : Word
  b : Word
  c : Word
  d : Word
  e : Word
deriving DecidableEq, Repr

/-- `(a, b, c, d, e) <- (H[0], H[1], H[2], H[3], H[4])` (R110). -/
def loadWorking (H : HashState) : Working := ⟨H[0], H[1], H[2], H[3], H[4]⟩

/-- Choice, rounds 0 to 19 (R111). -/
def choice (b c d : Word) : Word := (b &&& c) ||| (~~~b &&& d)

/-- Parity, rounds 20 to 39 and 60 to 79 (R112, R114). -/
def parity (b c d : Word) : Word := b ^^^ c ^^^ d

/-- Majority, rounds 40 to 59 (R113). -/
def majority (b c d : Word) : Word := (b &&& c) ||| (b &&& d) ||| (c &&& d)

/-- `F(t, b, c, d)`: the selector is the range of t (R80, R111 to R114). -/
def mix (t : Fin 80) (b c d : Word) : Word :=
  if t.val < 20 then choice b c d
  else if t.val < 40 then parity b c d
  else if t.val < 60 then majority b c d
  else parity b c d

/-- `Kt(t)` (R115). -/
def roundConstant (t : Fin 80) : Word :=
  if t.val < 20 then 0x5A827999
  else if t.val < 40 then 0x6ED9EBA1
  else if t.val < 60 then 0x8F1BBCDC
  else 0xCA62C1D6

/-- `temp` of round t (R116). -/
def roundTemp (t : Fin 80) (s : Working) (w : Word) : Word :=
  rotl s.a 5 + mix t s.b s.c s.d + s.e + roundConstant t + w

/-- `Round(t, s, w)` (R117, R118): every right side is a value from before the round (C11). -/
def roundStep (t : Fin 80) (s : Working) (w : Word) : Working :=
  ⟨roundTemp t s w, s.a, rotl s.b 30, s.c, s.d⟩

/-- `s_t` of R119: the working variables after the first t rounds. -/
def roundsUpTo (s : Working) (W : Schedule) : (t : Nat) → t ≤ 80 → Working
  | 0, _ => s
  | t + 1, h => roundStep ⟨t, h⟩ (roundsUpTo s W t (Nat.le_of_succ_le h)) W[t]

/-- `Rounds(s, W) = s_80` (R119). -/
def rounds (s : Working) (W : Schedule) : Working := roundsUpTo s W 80 (Nat.le_refl 80)

end Sys2Proof.Machine
end

