-- ==== Sys2Proof/Machine/Digest.lean ====
section
/-! DEFINITION. Accumulation, the compression function, the initial values, chaining, serialization and the digest
function (spec/43_accumulate_serialize.md R130 to R139). -/

namespace Sys2Proof.Machine

/-- Step 5: five separate additions modulo 2^32 (R130). -/
def accumulate (H : HashState) (s : Working) : HashState :=
  #v[H[0] + s.a, H[1] + s.b, H[2] + s.c, H[3] + s.d, H[4] + s.e]

/-- `Compress(Hs, B)`: the five steps of block processing (R131). -/
def compress (H : HashState) (B : Block) : HashState :=
  accumulate H (rounds (loadWorking H) (schedule B))

/-- IV[0..4], hardwired (R16, R132). -/
def initialHash : HashState := #v[0x67452301, 0xEFCDAB89, 0x98BADCFE, 0x10325476, 0xC3D2E1F0]

/-- `ChainFrom(Hs, P)` (R133), for |P| a multiple of 64 (beyond: log entry 12). -/
def chainFrom (H : HashState) (P : List Byte) : HashState := (blocks P).foldl compress H

/-- `Chain(P)` (R133). -/
def chain (P : List Byte) : HashState := chainFrom initialHash P

/-- `Serialize(Hs)` (R134). -/
def serialize (H : HashState) : DigestBytes :=
  be32 H[0] ++ be32 H[1] ++ be32 H[2] ++ be32 H[3] ++ be32 H[4]

/-- The inverse of `Serialize`: `Hs.j = word_be(D[4j..4j+4))` (R134). -/
def deserialize (D : DigestBytes) : HashState :=
  Vector.ofFn fun j : Fin 5 => wordBe D[4 * j.val] D[4 * j.val + 1] D[4 * j.val + 2] D[4 * j.val + 3]

/-- `Digest(m)` (R135). -/
def digestOf (m : Message) : DigestBytes := serialize (chain (pad m))

/-- `Mac(k, m) = Digest(k ++ m)`, defined when `|k| + |m| < 2^61` (R139). The MAC wrapper itself is host software (R4). -/
def mac (k m : List Byte) (bounded : k.length + m.length < 2 ^ 61) : DigestBytes :=
  digestOf ⟨k ++ m, by simpa using bounded⟩

end Sys2Proof.Machine
end

