-- ==== Sys2Proof/Machine/Flags.lean ====
section
/-! DEFINITION. The derived flags ERR and READY (spec/10_state.md R25) and the response word (spec/30_encoding.md R71).
The engine has no condition codes (R25). -/

namespace Sys2Proof.Machine

/-- `ERR = (PHASE == FAILED)` (R25). -/
def errFlag (s : State) : Bool := decide (s.phase = .failed)

/-- `READY = (PHASE == DONE)` (R25). -/
def readyFlag (s : State) : Bool := decide (s.phase = .done)

/-- The 2-bit code of PHASE (R21). -/
def phaseCode : Phase → BitVec 2
  | .idle => 0
  | .absorbing => 1
  | .done => 2
  | .failed => 3

/-- The 3-bit code of CAUSE (R26). -/
def causeCode : Cause → BitVec 3
  | .none => 0
  | .illegalCmd => 1
  | .badPhase => 2
  | .badIndex => 3
  | .lenOverflow => 4

/-- `response = {REJ, CAUSE[2:0], PHASE[1:0], 0b00, DATA[7:0]}` (R71). -/
def responseWord (rej : Bool) (cause : Cause) (phase : Phase) (data : Byte) : PortWord :=
  BitVec.ofBool rej ++ causeCode cause ++ phaseCode phase ++ 0#2 ++ data

end Sys2Proof.Machine
end

