-- ==== Sys2Proof/Machine/Ops.lean ====
section
/-! DEFINITION. The named operations on the state: taking the host's next action, the response, the rejection (the engine's
one exception, spec/60_exceptions.md R176) and beside it the one way back (R178), the checks of spec/45_commands.md R151,
the register operations of ABSORB and FINAL, and reset (spec/70_reset_and_hazards.md R190). -/

namespace Sys2Proof.Machine

/-- The host's next action, and the state in which it is performed; none when the host offers nothing. -/
def takeAction (s : State) : Option (HostAction × State) :=
  match s.host with
  | [] => none
  | a :: rest => some (a, { s with host := rest })

/-- `respond(rej, data)`: one response word, formed from CAUSE and PHASE as they are after the command (R12, R161). -/
def respond (rej : Bool) (data : Byte) (s : State) : State :=
  { s with rsps := s.rsps ++ [responseWord rej s.cause s.phase data] }

/-- What a rejection writes: PHASE and, for the first rejection only, CAUSE (R176, R179). -/
def enterFailed (c : Cause) (s : State) : State :=
  if s.phase = .failed then s else { s with cause := c, phase := .failed }

/-- `raise Reject(c)` (R176), for c in 1..4: no check gives NONE (log entry 12). Nothing is saved and there is no handler. -/
def reject (c : Cause) (s : State) : State := respond true 0x00 (enterFailed c s)

/-- What INIT writes: the start of a fresh computation and, in FAILED, the only way back other than reset (R153, R178). -/
def startComputation (s : State) : State :=
  { s with h := initialHash, len := 0, cause := .none, phase := .absorbing }

/-- What a reset writes (R190): H, LEN, BUF and DIGEST are "left with unspecified values", the free values of Config. The
spec leaves open whether they depend on what the registers held; here they may depend on all of the state, so that neither
erasure nor survival of message or key material can be proved (R41, D20; DESIGN CHOICE, log entry 4). A reset gives no
response. -/
def resetEngine (s : State) : State :=
  { s with
    phase := .idle
    cause := .none
    h := Config.resetHash s
    len := Config.resetLen s
    buf := Config.resetBuf s
    digest := Config.resetDigest s
    resets := s.resets + 1 }

/-- The largest value of LEN: 2^61 - 1 (R6, R28). -/
def lenMax : Len61 := BitVec.allOnes 61

/-- "Legal in PHASE" (R157). -/
def legalIn : Instr → Phase → Bool
  | .status, _ => true
  | .init, _ => true
  | .absorb _, p => decide (p = .absorbing)
  | .final, p => decide (p = .absorbing)
  | .read _, p => decide (p = .done)

/-- Check 3 of R151: the READ index is out of range. -/
def badIndex : Instr → Bool
  | .read i => decide (20 ≤ i)
  | _ => false

/-- Check 4 of R151: ABSORB at the largest length. -/
def lenOverflow (i : Instr) (s : State) : Bool :=
  match i with
  | .absorb _ => decide (s.len = lenMax)
  | _ => false

/-- Checks 2 to 4 of R151 in their order: the cause of the first that fails (R175). -/
def firstFailure (i : Instr) (s : State) : Option Cause :=
  if legalIn i s.phase = false then some .badPhase
  else if badIndex i then some .badIndex
  else if lenOverflow i s then some .lenOverflow
  else none

/-- Steps 2 to 5 of R151: the checks of the instruction, then its effect and one accepting response with `data`. -/
def transact (i : Instr) (effect : State → State) (data : Byte) (s : State) : Result :=
  match firstFailure i s with
  | some c => .next (reject c s)
  | none => .next (respond false data (effect s))

/-- What an accepted ABSORB writes (R154): BUF is read by the compression after the byte is stored. -/
def absorbByte (b : Byte) (s : State) : State :=
  let n := pending s.len
  let buf := s.buf.set n b (pending_lt s.len)
  { s with buf := buf, len := s.len + 1, h := if n = 63 then compress s.h buf else s.h }

/-- H after FINAL (R155): one compression of the tail, or two when it has 128 bytes. -/
def finalHash (s : State) : HashState :=
  let n := pending s.len
  let T := tail n s.buf.toList s.len
  let h1 := compress s.h (blockAt T 0)
  if 56 ≤ n then compress h1 (blockAt T 64) else h1

/-- What an accepted FINAL writes (R155). -/
def finish (s : State) : State :=
  let h := finalHash s
  { s with h := h, digest := serialize h, phase := .done }

/-- `MemRead(DIGEST+i, 1)` (R12, R156), for i ≤ 19; a larger index has been rejected before any read (R151;
log entry 12). -/
def digestByte (i : Nat) (s : State) : Byte := if h : i < 20 then s.digest[i] else 0x00

end Sys2Proof.Machine
end

