-- ==== Sys2Proof/Machine/Commands.lean ====
section
/-! DEFINITION. The meaning of each host command (spec/45_commands.md R152 to R156) and of a word that spells none
(spec/30_encoding.md R75). -/

namespace Sys2Proof.Machine

/-- STATUS (R152): no state is written; the response reports PHASE and CAUSE. -/
def execStatus (s : State) : Result := transact .status (fun s => s) 0x00 s

/-- INIT (R153). -/
def execInit (s : State) : Result := transact .init startComputation 0x00 s

/-- ABSORB b (R154). -/
def execAbsorb (b : Byte) (s : State) : Result := transact (.absorb b) (absorbByte b) 0x00 s

/-- FINAL (R155). -/
def execFinal (s : State) : Result := transact .final finish 0x00 s

/-- READ i (R156): no state is written; DATA is the digest byte. -/
def execRead (i : Nat) (s : State) : Result := transact (.read i) (fun s => s) (digestByte i s) s

/-- A word that R74 decodes to ILLEGAL: rejected in every phase (R75, R151 check 1). -/
def execIllegal (s : State) : Result := .next (reject .illegalCmd s)

end Sys2Proof.Machine
end

