-- ==== Sys2Proof/Machine/Dispatch.lean ====
section
/-! DEFINITION. One arm per command. -/

namespace Sys2Proof.Machine

/-- The meaning of a decoded command in a state (R151, steps 2 to 5). -/
def exec (i : Instr) (s : State) : Host.Outcome State Fault Refusal :=
  match i with
  | .status => Sys2Proof.Machine.execStatus s
  | .init => Sys2Proof.Machine.execInit s
  | .absorb b => Sys2Proof.Machine.execAbsorb b s
  | .final => Sys2Proof.Machine.execFinal s
  | .read k => Sys2Proof.Machine.execRead k s

end Sys2Proof.Machine
end

