-- ==== Sys2Proof/Machine/Step.lean ====
section
/-! DEFINITION. One step of the machine: one host action, performed completely (spec/00_scope.md R15, spec/45_commands.md
R150, R151; spec/70_reset_and_hazards.md R201). -/

namespace Sys2Proof.Machine

/-- Take the host's next action and perform it. When the host offers nothing the engine waits, all its state retained
(R184, R202; log entry 2). -/
def step (s : State) : Host.Outcome State Fault Refusal :=
  match takeAction s with
  | none => .next s
  | some (.reset, s') => .next (resetEngine s')
  | some (.command w, s') =>
    match decode w with
    | .instr i => exec i s'
    | .illegal _ => execIllegal s'

/-- The state in which the host's next action is to issue the table's word: the engine fetches nothing (R20), so a command
runs by being issued at the port (log entry 10). -/
def State.withFetchWord (s : State) (nbits w : Nat) : State :=
  { s with host := .command (tableWord nbits w) :: s.host }

end Sys2Proof.Machine
end

