-- ==== Sys2Proof/Safety.lean ====
section
/-! DEFINITION. What claims about the engine are stated with: a run gone wrong (spec/60_exceptions.md R185), a rejected
state (R176), the invariants of spec/10_state.md R27, R35 and spec/45_commands.md R159, what the host can ever observe
(R35, R38, R40), and the command sequence of R158. -/

namespace Sys2Proof.Machine

/-- "Gone wrong" is exactly PHASE = FAILED (R185). -/
def GoneWrong (s : State) : Prop := s.phase = .failed

/-- The run is complete: a FINAL has been accepted in it (R202). -/
def Complete (s : State) : Prop := s.phase = .done

/-- What a command rejected with cause `c` leaves, written out from R176 and R179. -/
def rejectedWith (c : Cause) (s : State) : State :=
  let stored := if s.phase = .failed then s.cause else c
  { s with
    phase := .failed
    cause := stored
    rsps := s.rsps ++ [1#1 ++ causeCode stored ++ 0b11#2 ++ 0b00#2 ++ 0x00#8] }

/-- The invariant between commands: CAUSE is not 0 exactly in FAILED (R27), and in DONE the digest register holds H,
serialized (R35 fact 2, R22). -/
def PhaseInv (s : State) : Prop :=
  (s.cause ≠ .none ↔ s.phase = .failed) ∧ (s.phase = .done → s.digest = serialize s.h)

/-- The bytes of `m` have been absorbed since the last INIT (R35 fact 1, R159). -/
def Absorbed (m : List Byte) (s : State) : Prop :=
  s.phase = .absorbing ∧ s.cause = .none ∧ s.len.toNat = m.length ∧
  s.h = chain (m.take (64 * (m.length / 64))) ∧
  ∀ j (_ : j < m.length % 64), s.buf[j] = m[64 * (m.length / 64) + j]

/-- No later command can tell the two states apart: H, LEN and the first LEN mod 64 cells of BUF count in ABSORBING only,
DIGEST in DONE only (R38, R40). -/
def ObsEq (s t : State) : Prop :=
  s.phase = t.phase ∧ s.cause = t.cause ∧ s.host = t.host ∧ s.rsps = t.rsps ∧
  (s.phase = .absorbing → s.h = t.h ∧ s.len = t.len ∧
    ∀ k (_ : k < s.len.toNat % 64), s.buf[k] = t.buf[k]) ∧
  (s.phase = .done → s.digest = t.digest)

/-- The commands that compute `Digest(m)` (R158): INIT, one ABSORB per byte in order, FINAL. -/
def digestCommands (m : List Byte) : List Instr := .init :: m.map .absorb ++ [.final]

/-- The host issuing the commands in order. -/
def issue (is : List Instr) : List HostAction := is.map fun i => .command (encode i)

/-- k steps from a state, stopping at the first fault or refusal: `Host.Core.run` of this machine, over its own types. -/
def runSteps : Nat → State → Result
  | 0, s => .next s
  | k + 1, s =>
    match step s with
    | .next t => runSteps k t
    | .fault r => .fault r
    | .refused r => .refused r

/-- The host action is an accepted way out of FAILED: INIT's word or reset (R178). -/
def isRestart : HostAction → Bool
  | .reset => true
  | .command w => decide (w = 0x0100)

end Sys2Proof.Machine
end

