-- ==== Sys2Proof/Certificates/Slice0/Obligations.lean ====
section
/-! DEFINITION. What the provers are asked to prove, in the order of the spec's files: encodings, the port, the commands,
the rejection, whole-machine rules, reset and independence, then the hash function's parts and the digest. -/

open Sys2Proof Sys2Proof.Machine

/-! ### Encodings (30_encoding.md) -/

/-- The command words the spec writes out decode as it says: the words of R83 (30_encoding.md section 8) and of the table of
95_test_vectors.md section 2.10, inferences the spec marks as its own from R70 to R74. -/
def Obligations.SpecWordsDecodeAsListed : Prop :=
  decode 0b0000000000000000#16 = .instr .status ∧
  decode 0b0000000100000000#16 = .instr .init ∧
  decode 0b0000001000000000#16 = .instr (.absorb 0x00) ∧
  decode 0b0000001001100001#16 = .instr (.absorb 0x61) ∧
  decode 0b0000001010000000#16 = .instr (.absorb 0x80) ∧
  decode 0b0000001011111111#16 = .instr (.absorb 0xFF) ∧
  decode 0b0000001100000000#16 = .instr .final ∧
  decode 0b0000010000000000#16 = .instr (.read 0) ∧
  decode 0b0000010000010011#16 = .instr (.read 19) ∧
  decode 0b0000010000010100#16 = .instr (.read 20) ∧
  decode 0b0000010011111111#16 = .instr (.read 255) ∧
  decode 0x0101#16 = .illegal (.argNotZero 0x01 0x01) ∧
  decode 0x0001#16 = .illegal (.argNotZero 0x00 0x01) ∧
  decode 0x0301#16 = .illegal (.argNotZero 0x03 0x01) ∧
  decode 0x03FF#16 = .illegal (.argNotZero 0x03 0xFF) ∧
  decode 0x0500#16 = .illegal (.unassignedOp 0x05) ∧
  decode 0x8000#16 = .illegal (.unassignedOp 0x80) ∧
  decode 0xFFFF#16 = .illegal (.unassignedOp 0xFF)

/-- R72: a word spells a command if and only if its masked bits are the row's match, for each of the five rows, and the
operand is the ARG byte; no word spells two commands, because the pairs are disjoint. -/
def Obligations.DecodeFollowsMatchAndMask : Prop :=
  ∀ w : PortWord,
    (decode w = .instr .status ↔ w &&& 0xFFFF = 0x0000) ∧
    (decode w = .instr .init ↔ w &&& 0xFFFF = 0x0100) ∧
    (∀ b, decode w = .instr (.absorb b) ↔ w &&& 0xFF00 = 0x0200 ∧ b.toNat = w.toNat % 256) ∧
    (decode w = .instr .final ↔ w &&& 0xFFFF = 0x0300) ∧
    (∀ i, decode w = .instr (.read i) ↔ w &&& 0xFF00 = 0x0400 ∧ i = w.toNat % 256)

/-- R75: the ILLEGAL words are exactly those with OP in 0x05..0xFF (64256 of them) and those with OP 0, 1 or 3 and ARG
not zero (765), and each is rejected with cause ILLEGAL_CMD in every phase. -/
def Obligations.ReservedWordsAreRejected : Prop :=
  (∀ w : PortWord, (∃ why, decode w = .illegal why) ↔
    5 ≤ w.toNat / 256 ∨
      (w.toNat / 256 = 0 ∨ w.toNat / 256 = 1 ∨ w.toNat / 256 = 3) ∧ w.toNat % 256 ≠ 0) ∧
  (∀ (s : State) (w : PortWord) (rest : List HostAction) (why : Reserved),
    s.host = .command w :: rest → decode w = .illegal why →
      step s = .next (rejectedWith .illegalCmd { s with host := rest })) ∧
  (Finset.univ.filter fun w : PortWord => 5 ≤ w.toNat / 256).card = 64256 ∧
  (Finset.univ.filter fun w : PortWord =>
    (w.toNat / 256 = 0 ∨ w.toNat / 256 = 1 ∨ w.toNat / 256 = 3) ∧ w.toNat % 256 ≠ 0).card = 765

/-- Decoding the word of a well-formed instruction gives it back, with every operand value its field admits. -/
def Obligations.DecodeOfEncode : Prop :=
  ∀ i : Instr, WellFormed i = true → decode (encode i) = .instr i

/-- Each word has one meaning: a word that decodes to an instruction is that instruction's own word. -/
def Obligations.EncodeOfDecode : Prop :=
  ∀ (w : PortWord) (i : Instr), decode w = .instr i → WellFormed i = true ∧ encode i = w

/-! ### The port and the step (30_encoding.md section 2, 45_commands.md section 1) -/

/-- A step runs the decoded instruction on the state with the action taken; the other cases of a step are a reserved
word, a reset, and a host that offers nothing (then the engine waits; log entry 2). -/
def Obligations.StepRunsDecodedCommand : Prop :=
  (∀ (s : State) (w : PortWord) (rest : List HostAction) (i : Instr),
    s.host = .command w :: rest → decode w = .instr i → step s = exec i { s with host := rest }) ∧
  (∀ (s : State) (w : PortWord) (rest : List HostAction) (why : Reserved),
    s.host = .command w :: rest → decode w = .illegal why → step s = execIllegal { s with host := rest }) ∧
  (∀ (s : State) (rest : List HostAction),
    s.host = .reset :: rest → step s = .next (resetEngine { s with host := rest })) ∧
  (∀ s : State, s.host = [] → step s = .next s)

/-- The engine has no state from which no step exists, and it never stops: every command word and every reset has an
outcome. The spec excepts the host ceasing to send commands; there the engine waits (R184, R202), and that this waiting is a
step that changes nothing is the model's choice (DEDUCED, log entry 2). -/
def Obligations.EveryStepAnswersNext : Prop :=
  ∀ s : State, ∃ t, step s = .next t

/-- The codes of PHASE (R21) and CAUSE (R26) as the host sees them. -/
def Obligations.PhaseAndCauseCodes : Prop :=
  (∀ rej c d, ((responseWord rej c .idle d).toNat / 1024 % 4 = 0 ∧
    (responseWord rej c .absorbing d).toNat / 1024 % 4 = 1 ∧
    (responseWord rej c .done d).toNat / 1024 % 4 = 2 ∧
    (responseWord rej c .failed d).toNat / 1024 % 4 = 3)) ∧
  (∀ rej p d, ((responseWord rej .none p d).toNat / 4096 % 8 = 0 ∧
    (responseWord rej .illegalCmd p d).toNat / 4096 % 8 = 1 ∧
    (responseWord rej .badPhase p d).toNat / 4096 % 8 = 2 ∧
    (responseWord rej .badIndex p d).toNat / 4096 % 8 = 3 ∧
    (responseWord rej .lenOverflow p d).toNat / 4096 % 8 = 4))

/-- R71: every command, accepted or rejected, appends exactly one response, whose bits are REJ (15), 1 exactly when the
command was rejected, CAUSE (14:12) and PHASE (11:10) after the command, two zero bits (9:8), and DATA (7:0), the digest
byte for an accepted READ and 0x00 otherwise. -/
def Obligations.OneResponsePerCommand : Prop :=
  ∀ (s : State) (w : PortWord) (rest : List HostAction), s.host = .command w :: rest →
    ∃ t r, step s = .next t ∧ t.host = rest ∧ t.rsps = s.rsps ++ [r] ∧
      r.extractLsb' 12 3 = causeCode t.cause ∧
      r.extractLsb' 10 2 = phaseCode t.phase ∧
      r.extractLsb' 8 2 = 0#2 ∧
      (r.getLsbD 15 = true ↔ ∃ c, c ≠ .none ∧ t = rejectedWith c { s with host := rest }) ∧
      (r.getLsbD 15 = true → r.extractLsb' 0 8 = 0x00#8) ∧
      (r.getLsbD 15 = false →
        (∀ i, decode w ≠ .instr (.read i)) ∧ r.extractLsb' 0 8 = 0x00#8 ∨
        ∃ i, ∃ h : i < 20, decode w = .instr (.read i) ∧ s.phase = .done ∧ r.extractLsb' 0 8 = s.digest[i])

/-- The response words that occur, and after which command and in which phase each does, from a state that keeps the
invariant (the list R71 gives, an inference the spec marks as its own). -/
def Obligations.ResponseWordsThatOccur : Prop :=
  ∀ (s : State) (w : PortWord) (rest : List HostAction), PhaseInv s → s.host = .command w :: rest →
    ∃ t r, step s = .next t ∧ t.rsps = s.rsps ++ [r] ∧
      (r = 0x0000 ∧ w = 0x0000 ∧ t.phase = .idle ∨
        r = 0x0400 ∧ t.phase = .absorbing ∨
        r = 0x0800 ∧ (w = 0x0300 ∨ w = 0x0000) ∧ t.phase = .done ∨
        r.extractLsb' 8 8 = 0x08#8 ∧ (∃ i, i < 20 ∧ w = encode (.read i)) ∧ t.phase = .done ∨
        r ∈ [0x1C00#16, 0x2C00, 0x3C00, 0x4C00] ∧ w = 0x0000 ∧ t.phase = .failed ∨
        r ∈ [0x9C00#16, 0xAC00, 0xBC00, 0xCC00] ∧ w ≠ 0x0000 ∧ w ≠ 0x0100 ∧ t.phase = .failed)

/-! ### The five commands (45_commands.md section 2) -/

/-- R152: STATUS, legal in every phase, writes nothing and answers {0, CAUSE, PHASE, 0b00, 0x00}; with ARG not zero the
word is not STATUS but reserved. -/
def Obligations.StatusReportsPhaseAndCause : Prop :=
  (∀ s : State, exec .status s =
    .next { s with rsps := s.rsps ++ [0#1 ++ causeCode s.cause ++ phaseCode s.phase ++ 0#2 ++ 0x00#8] }) ∧
  encode .status = 0x0000 ∧
  (∀ arg : BitVec 8, arg ≠ 0 → decode (0x00#8 ++ arg) = .illegal (.argNotZero 0x00 arg)) ∧
  (∀ s : State, s.phase = .failed → s.cause = .badPhase →
    exec .status s = .next { s with rsps := s.rsps ++ [0x2C00] })

/-- R153: INIT, legal in every phase, writes IV to H, 0 to LEN and CAUSE, ABSORBING to PHASE, nothing else, and answers
0x0400; a second INIT changes nothing more; with ARG not zero the word is reserved. -/
def Obligations.InitStartsComputation : Prop :=
  (∀ s : State, exec .init s =
    .next { s with
      h := #v[0x67452301, 0xEFCDAB89, 0x98BADCFE, 0x10325476, 0xC3D2E1F0]
      len := 0
      cause := .none
      phase := .absorbing
      rsps := s.rsps ++ [0x0400] }) ∧
  (∀ s t u : State, exec .init s = .next t → exec .init t = .next u →
    u = { t with rsps := t.rsps ++ [0x0400] }) ∧
  encode .init = 0x0100 ∧
  (∀ arg : BitVec 8, arg ≠ 0 → decode (0x01#8 ++ arg) = .illegal (.argNotZero 0x01 arg))

/-- R154: in ABSORBING below the largest length ABSORB stores its byte at LEN mod 64, adds 1 to LEN without wrapping, and
on the 64th byte compresses the 64 bytes with that byte in place; all else is kept and the answer is an acceptance.
Elsewhere it is rejected, and neither the byte, LEN nor H is touched. -/
def Obligations.AbsorbStoresOneByte : Prop :=
  (∀ (s : State) (b : Byte), s.phase = .absorbing → s.len.toNat ≠ 2 ^ 61 - 1 →
    ∃ t, exec (.absorb b) s = .next t ∧
      (∀ k (_ : k < 64), t.buf[k] = if k = s.len.toNat % 64 then b else s.buf[k]) ∧
      t.len.toNat = s.len.toNat + 1 ∧
      t.h = (if s.len.toNat % 64 = 63 then compress s.h t.buf else s.h) ∧
      t.phase = .absorbing ∧ t.cause = s.cause ∧ t.digest = s.digest ∧
      t.host = s.host ∧ t.resets = s.resets ∧
      t.rsps = s.rsps ++ [0#1 ++ causeCode s.cause ++ 0b01#2 ++ 0#2 ++ 0x00#8]) ∧
  (∀ (s : State) (b : Byte), s.phase ≠ .absorbing →
    exec (.absorb b) s = .next (rejectedWith .badPhase s)) ∧
  (∀ (s : State) (b : Byte), s.phase = .absorbing → s.len.toNat = 2 ^ 61 - 1 →
    exec (.absorb b) s = .next (rejectedWith .lenOverflow s)) ∧
  (∀ b : Byte, encode (.absorb b) = 0x0200 ||| b.zeroExtend 16)

/-- R155: in ABSORBING FINAL compresses the first 64 bytes of Tail(LEN mod 64, BUF, LEN), and the next 64 when
LEN mod 64 ≥ 56, writes the five words big-endian to DIGEST (R54), and enters DONE; LEN, BUF and the rest are kept. In every
other phase it is rejected; with ARG not zero the word is reserved. -/
def Obligations.FinalWritesDigest : Prop :=
  (∀ s : State, s.phase = .absorbing →
    ∃ t, exec .final s = .next t ∧
      (s.len.toNat % 64 ≤ 55 →
        t.h = compress s.h (blockAt (tail (s.len.toNat % 64) s.buf.toList s.len) 0)) ∧
      (56 ≤ s.len.toNat % 64 →
        t.h = compress (compress s.h (blockAt (tail (s.len.toNat % 64) s.buf.toList s.len) 0))
          (blockAt (tail (s.len.toNat % 64) s.buf.toList s.len) 64)) ∧
      (∀ i (_ : i < 20), t.digest[i].toNat = t.h[i / 4].toNat / 2 ^ (24 - 8 * (i % 4)) % 256) ∧
      t.phase = .done ∧ readyFlag t = true ∧
      t.len = s.len ∧ t.buf = s.buf ∧ t.cause = s.cause ∧ t.host = s.host ∧ t.resets = s.resets ∧
      t.rsps = s.rsps ++ [0#1 ++ causeCode s.cause ++ 0b10#2 ++ 0#2 ++ 0x00#8]) ∧
  (∀ s : State, s.phase ≠ .absorbing → exec .final s = .next (rejectedWith .badPhase s)) ∧
  encode .final = 0x0300 ∧
  (∀ arg : BitVec 8, arg ≠ 0 → decode (0x03#8 ++ arg) = .illegal (.argNotZero 0x03 arg))

/-- R156: in DONE READ i with i ≤ 19 writes nothing and answers DIGEST[i]; in DONE with i ≥ 20 it is rejected with
BAD_INDEX; in every other phase it is rejected with BAD_PHASE whatever i is. -/
def Obligations.ReadReturnsDigestByte : Prop :=
  (∀ (s : State) (i : Nat) (_ : i < 20), s.phase = .done →
    exec (.read i) s =
      .next { s with rsps := s.rsps ++ [0#1 ++ causeCode s.cause ++ 0b10#2 ++ 0#2 ++ s.digest[i]] }) ∧
  (∀ (s : State) (i : Nat), s.phase = .done → 20 ≤ i →
    exec (.read i) s = .next (rejectedWith .badIndex s)) ∧
  (∀ (s : State) (i : Nat), s.phase ≠ .done → exec (.read i) s = .next (rejectedWith .badPhase s)) ∧
  (∀ b : BitVec 8, encode (.read b.toNat) = 0x0400 ||| b.zeroExtend 16)

/-! ### Rejections, phases and flags (45_commands.md section 3, 60_exceptions.md) -/

/-- R175: the cause reported is that of the first check that fails, in the order ILLEGAL_CMD, BAD_PHASE, BAD_INDEX,
LEN_OVERFLOW; when none fails the command is accepted (REJ = 0). -/
def Obligations.FirstFailingCheckDecides : Prop :=
  ∀ (s : State) (w : PortWord) (rest : List HostAction), s.host = .command w :: rest →
    let s' : State := { s with host := rest }
    let accepted : Prop := ∃ t r, step s = .next t ∧ t.rsps = s.rsps ++ [r] ∧ r.getLsbD 15 = false
    match decode w with
    | .illegal _ => step s = .next (rejectedWith .illegalCmd s')
    | .instr .status => accepted
    | .instr .init => accepted
    | .instr (.absorb _) =>
      if s.phase ≠ .absorbing then step s = .next (rejectedWith .badPhase s')
      else if s.len.toNat = 2 ^ 61 - 1 then step s = .next (rejectedWith .lenOverflow s')
      else accepted
    | .instr .final =>
      if s.phase ≠ .absorbing then step s = .next (rejectedWith .badPhase s') else accepted
    | .instr (.read i) =>
      if s.phase ≠ .done then step s = .next (rejectedWith .badPhase s')
      else if 20 ≤ i then step s = .next (rejectedWith .badIndex s')
      else accepted

/-- R176: a rejection with cause c writes PHASE and CAUSE only, and not even those in FAILED, and answers with REJ = 1,
DATA = 0x00 and CAUSE and PHASE as now stored. -/
def Obligations.RejectionWritesPhaseAndCause : Prop :=
  ∀ (c : Cause) (s : State), c ≠ .none → ∃ r,
    reject c s =
      (if s.phase = .failed then { s with rsps := s.rsps ++ [r] }
       else { s with cause := c, phase := .failed, rsps := s.rsps ++ [r] }) ∧
    r.getLsbD 15 = true ∧ r.extractLsb' 0 8 = 0x00#8 ∧
    r.extractLsb' 12 3 = causeCode (reject c s).cause ∧ r.extractLsb' 10 2 = 0b11#2

/-- R179: in FAILED every command but STATUS and INIT is rejected and changes no state at all; its response carries the
CAUSE stored by the first rejection. STATUS and INIT are accepted. -/
def Obligations.RejectionInFailedChangesNothing : Prop :=
  ∀ (s : State) (w : PortWord) (rest : List HostAction), s.phase = .failed → s.host = .command w :: rest →
    ((w ≠ 0x0000 ∧ w ≠ 0x0100) →
      step s = .next { s with
        host := rest
        rsps := s.rsps ++ [1#1 ++ causeCode s.cause ++ 0b11#2 ++ 0#2 ++ 0x00#8] }) ∧
    ((w = 0x0000 ∨ w = 0x0100) →
      ∃ t r, step s = .next t ∧ t.rsps = s.rsps ++ [r] ∧ r.getLsbD 15 = false)

/-- R178: an accepted INIT, which sets CAUSE to 0 and starts a new computation from IV and length 0, and reset are what
leaves FAILED, and nothing else does. -/
def Obligations.OnlyInitAndResetLeaveFailed : Prop :=
  ∀ s t : State, step s = .next t → s.phase = .failed →
    (t.phase ≠ .failed ↔ ∃ rest, s.host = .command 0x0100 :: rest ∨ s.host = .reset :: rest) ∧
    (∀ rest, s.host = .command 0x0100 :: rest →
      t.phase = .absorbing ∧ t.cause = .none ∧ t.h = initialHash ∧ t.len = 0) ∧
    (∀ rest, s.host = .reset :: rest → t.phase = .idle ∧ t.cause = .none)

/-- A host that ignores a rejection cannot read a digest: along any run from FAILED whose actions hold neither INIT nor
reset, the engine stays in FAILED with the same CAUSE, and every response it gives has DATA = 0x00 (R170, R185). -/
def Obligations.FailedRunGivesNoDigest : Prop :=
  ∀ (n : Nat) (s : State), GoneWrong s → (∀ a ∈ s.host, isRestart a = false) →
    ∃ t new, runSteps n s = .next t ∧ GoneWrong t ∧ t.cause = s.cause ∧ t.digest = s.digest ∧
      t.rsps = s.rsps ++ new ∧ ∀ r ∈ new, r.extractLsb' 0 8 = 0x00#8

/-- R157: the complete phase transition table, with the causes of its rejections. -/
def Obligations.PhaseTransitionTable : Prop :=
  (∀ (i : Instr) (s : State), ∃ t, exec i s = .next t ∧
    t.phase =
      (match i, s.phase with
      | .status, p => p
      | .init, _ => .absorbing
      | .absorb _, .absorbing => if s.len.toNat = 2 ^ 61 - 1 then .failed else .absorbing
      | .absorb _, _ => .failed
      | .final, .absorbing => .done
      | .final, _ => .failed
      | .read k, .done => if k ≤ 19 then .done else .failed
      | .read _, _ => .failed) ∧
    t.cause =
      (match i, s.phase with
      | .status, _ => s.cause
      | .init, _ => .none
      | _, .failed => s.cause
      | .absorb _, .absorbing => if s.len.toNat = 2 ^ 61 - 1 then .lenOverflow else s.cause
      | .absorb _, _ => .badPhase
      | .final, .absorbing => s.cause
      | .final, _ => .badPhase
      | .read k, .done => if k ≤ 19 then s.cause else .badIndex
      | .read _, _ => .badPhase)) ∧
  (∀ s : State, ∃ t, execIllegal s = .next t ∧ t.phase = .failed ∧
    t.cause = if s.phase = .failed then s.cause else .illegalCmd)

/-- R25: ERR is PHASE = FAILED and READY is PHASE = DONE; a rejection sets ERR and clears READY, only an accepted INIT or a
reset clears ERR, an accepted FINAL sets READY and nothing else does, an accepted INIT and a reset clear both; every
response shows both in its PHASE field, and both are 0 at reset. -/
def Obligations.ErrAndReadyFlags : Prop :=
  (∀ s : State, (errFlag s = true ↔ s.phase = .failed) ∧ (readyFlag s = true ↔ s.phase = .done)) ∧
  (∀ (c : Cause) (s : State), errFlag (reject c s) = true ∧ readyFlag (reject c s) = false) ∧
  (∀ s t : State, step s = .next t →
    (errFlag s = true → errFlag t = false →
      ∃ rest, s.host = .command 0x0100 :: rest ∨ s.host = .reset :: rest) ∧
    (readyFlag s = false →
      (readyFlag t = true ↔ s.phase = .absorbing ∧ ∃ rest, s.host = .command 0x0300 :: rest)) ∧
    ((∃ rest, s.host = .command 0x0100 :: rest ∨ s.host = .reset :: rest) →
      errFlag t = false ∧ readyFlag t = false) ∧
    (∀ w rest, s.host = .command w :: rest → ∃ r, t.rsps = s.rsps ++ [r] ∧
      (errFlag t = true ↔ r.extractLsb' 10 2 = 3#2) ∧ (readyFlag t = true ↔ r.extractLsb' 10 2 = 2#2))) ∧
  errFlag State.reset = false ∧ readyFlag State.reset = false

/-! ### Who writes each register (10_state.md) -/

/-- H is written only by INIT (to IV), by the ABSORB that completes a block, by FINAL, and by reset (R22). -/
def Obligations.WritersOfHashState : Prop :=
  ∀ s t : State, step s = .next t → t.h ≠ s.h → ∃ a rest, s.host = a :: rest ∧
    (a = .command 0x0100 ∧ t.h = initialHash ∨
      (∃ b : Byte, a = .command (encode (.absorb b))) ∧ s.phase = .absorbing ∧ s.len.toNat % 64 = 63 ∧
        t.h = compress s.h t.buf ∨
      a = .command 0x0300 ∧ s.phase = .absorbing ∧ t.phase = .done ∨
      a = .reset)

/-- LEN is written only by INIT (to 0), by an accepted ABSORB (plus 1, never wrapping), and by reset (R28). -/
def Obligations.WritersOfLength : Prop :=
  ∀ s t : State, step s = .next t → t.len ≠ s.len → ∃ a rest, s.host = a :: rest ∧
    (a = .command 0x0100 ∧ t.len = 0 ∨
      (∃ b : Byte, a = .command (encode (.absorb b))) ∧ s.phase = .absorbing ∧
        t.len.toNat = s.len.toNat + 1 ∨
      a = .reset)

/-- BUF is written one cell at a time, the cell LEN mod 64, by ABSORB, and by reset; INIT, FINAL and rejections keep it
(R30, R41). -/
def Obligations.WritersOfBlockBuffer : Prop :=
  ∀ (s t : State) (k : Nat) (_ : k < 64), step s = .next t → t.buf[k] ≠ s.buf[k] → ∃ a rest, s.host = a :: rest ∧
    ((∃ b : Byte, a = .command (encode (.absorb b)) ∧ t.buf[k] = b) ∧ s.phase = .absorbing ∧
        k = s.len.toNat % 64 ∨
      a = .reset)

/-- DIGEST is written only by an accepted FINAL, all 20 cells at once from H, and by reset (R32). -/
def Obligations.WritersOfDigest : Prop :=
  ∀ s t : State, step s = .next t → t.digest ≠ s.digest → ∃ a rest, s.host = a :: rest ∧
    (a = .command 0x0300 ∧ s.phase = .absorbing ∧ t.phase = .done ∧ t.digest = serialize t.h ∨ a = .reset)

/-! ### Invariants, reset and independence (10_state.md sections 8 to 10, 70_reset_and_hazards.md) -/

/-- The invariant holds in the state after reset. -/
def Obligations.PhaseInvAtReset : Prop := PhaseInv State.reset

/-- Every step keeps the invariant: CAUSE is not 0 exactly in FAILED, and in DONE the digest register is H serialized. The
spec marks both facts as its own inferences (R27; R35 fact 2). -/
def Obligations.StepKeepsPhaseInv : Prop :=
  ∀ s t : State, PhaseInv s → step s = .next t → PhaseInv t

/-- What R39 says of PHASE, CAUSE and the entry point: after reset PHASE = IDLE and CAUSE = 0, and in IDLE only STATUS and INIT are accepted. -/
def Obligations.ResetEntryPoint : Prop :=
  State.reset.phase = .idle ∧ State.reset.cause = .none ∧
  ∀ s : State, s.phase = .idle →
    (∃ t r, exec .status s = .next t ∧ t.rsps = s.rsps ++ [r] ∧ r.getLsbD 15 = false) ∧
    (∃ t r, exec .init s = .next t ∧ t.rsps = s.rsps ++ [r] ∧ r.getLsbD 15 = false) ∧
    (∀ b, exec (.absorb b) s = .next (rejectedWith .badPhase s)) ∧
    exec .final s = .next (rejectedWith .badPhase s) ∧
    (∀ i, exec (.read i) s = .next (rejectedWith .badPhase s)) ∧
    execIllegal s = .next (rejectedWith .illegalCmd s)

/-- R190: a reset sets PHASE = IDLE and CAUSE = 0 and gives no response, and afterwards the engine is in the same
observable condition whatever it was doing before. -/
def Obligations.ResetForgetsEverything : Prop :=
  ∀ (s : State) (rest : List HostAction), s.host = .reset :: rest →
    ∃ t, step s = .next t ∧ t.phase = .idle ∧ t.cause = .none ∧ t.host = rest ∧ t.rsps = s.rsps ∧
      ∀ s₂ : State, s₂.host = s.host → s₂.rsps = s.rsps → ∃ t₂, step s₂ = .next t₂ ∧ ObsEq t t₂

/-- An accepted INIT makes what follows independent of everything before it (R38, an inference the spec marks as its
own): from any two states with the same port, the states after INIT cannot be told apart. -/
def Obligations.InitForgetsHistory : Prop :=
  ∀ s₁ s₂ : State, s₁.host = s₂.host → s₁.rsps = s₂.rsps →
    ∃ t₁ t₂, exec .init s₁ = .next t₁ ∧ exec .init s₂ = .next t₂ ∧ ObsEq t₁ t₂

/-- No rule reads a register that nothing has written: two states that differ only in what the spec calls unobservable
give the same responses for ever (R38, R40, inferences the spec marks as its own). -/
def Obligations.UnobservableStateNeverLeaks : Prop :=
  ∀ (n : Nat) (s₁ s₂ : State), ObsEq s₁ s₂ →
    ∃ t₁ t₂, runSteps n s₁ = .next t₁ ∧ runSteps n s₂ = .next t₂ ∧ ObsEq t₁ t₂

/-! ### Words and bytes (00_scope.md, 20_memory.md) -/

/-- R9: addition wraps modulo 2^32, NOT is XOR with all ones, and in `rotl(x, n)` bit i of x moves to bit
(i + n) mod 32. -/
def Obligations.WordArithmetic : Prop :=
  (∀ x y : Word, (x + y).toNat = (x.toNat + y.toNat) % 2 ^ 32) ∧
  (∀ x : Word, ~~~x = x ^^^ 0xFFFFFFFF) ∧
  (∀ (x : Word) (n i : Nat), 0 < n → n < 32 → i < 32 → (rotl x n).getLsbD ((i + n) % 32) = x.getLsbD i)

/-- R10 (its inverse laws are inferences the spec marks as its own): be32 and be64 give the bytes most significant first, word_be weighs its four bytes 2^24, 2^16, 2^8 and 1, and
be32 and word_be are inverse to each other. -/
def Obligations.BigEndianConversions : Prop :=
  (∀ (x : Word) (k : Nat) (_ : k < 4), (be32 x)[k].toNat = x.toNat / 2 ^ (24 - 8 * k) % 256) ∧
  (∀ (l : U64) (k : Nat) (_ : k < 8), (be64 l)[k].toNat = l.toNat / 2 ^ (56 - 8 * k) % 256) ∧
  (∀ b0 b1 b2 b3 : Byte, (wordBe b0 b1 b2 b3).toNat =
    b0.toNat * 2 ^ 24 + b1.toNat * 2 ^ 16 + b2.toNat * 2 ^ 8 + b3.toNat) ∧
  (∀ x : Word, wordBe (be32 x)[0] (be32 x)[1] (be32 x)[2] (be32 x)[3] = x) ∧
  (∀ b0 b1 b2 b3 : Byte, be32 (wordBe b0 b1 b2 b3) = #v[b0, b1, b2, b3])

/-- Serialization: byte i of the digest is H[i div 4][31 - 8(i mod 4) : 24 - 8(i mod 4)] (20_memory.md section 2), and
Serialize is a bijection whose inverse reads the words back (43_accumulate_serialize.md section 5). -/
def Obligations.SerializeIndexMap : Prop :=
  (∀ (H : HashState) (i : Nat) (_ : i < 20),
    (serialize H)[i] = H[i / 4].extractLsb' (24 - 8 * (i % 4)) 8) ∧
  (∀ H : HashState, deserialize (serialize H) = H) ∧
  (∀ D : DigestBytes, serialize (deserialize D) = D)

/-! ### Padding (40_padding.md) -/

/-- R90: Zpad(n) is the least z with (n + 1 + z) mod 64 = 56; its closed forms, and where it is 0 and 63. -/
def Obligations.ZpadIsLeast : Prop :=
  ∀ n : Nat,
    (n + 1 + zpad n) % 64 = 56 ∧ (∀ z, (n + 1 + z) % 64 = 56 → zpad n ≤ z) ∧
    (n % 64 ≤ 55 → zpad n = 55 - n % 64) ∧ (56 ≤ n % 64 → zpad n = 119 - n % 64) ∧
    zpad n = zpad (n % 64) ∧
    (zpad n = 0 ↔ n % 64 = 55) ∧ zpad n ≤ 63 ∧ (zpad n = 63 ↔ n % 64 = 56)

/-- R91 and R93: Pad(m) is m, one marker byte 0x80, Zpad(|m|) zero bytes, and |m| × 8 as an 8-byte big-endian number, in
this order. -/
def Obligations.PadLayout : Prop :=
  ∀ m : Message,
    (pad m).take m.bytes.length = m.bytes ∧
    (pad m)[m.bytes.length]? = some 0x80 ∧
    (∀ k, m.bytes.length + 1 ≤ k → k < m.bytes.length + 1 + zpad m.bytes.length → (pad m)[k]? = some 0x00) ∧
    (∃ f : Vector Byte 8, (pad m).drop (m.bytes.length + 1 + zpad m.bytes.length) = f.toList ∧
      f[0].toNat * 2 ^ 56 + f[1].toNat * 2 ^ 48 + f[2].toNat * 2 ^ 40 + f[3].toNat * 2 ^ 32 +
        f[4].toNat * 2 ^ 24 + f[5].toNat * 2 ^ 16 + f[6].toNat * 2 ^ 8 + f[7].toNat =
          m.bytes.length * 8)

/-- The padded length is the smallest multiple of 64 that is at least |m| + 9, so NB(m) = (|m| + 8) div 64 + 1 blocks:
|m| div 64 of them hold message bytes alone, and the tail is one block when |m| mod 64 ≤ 55 and two otherwise (R92, R94,
R160, inferences the spec marks as its own). -/
def Obligations.PaddedBlockCount : Prop :=
  ∀ m : Message,
    (pad m).length % 64 = 0 ∧ m.bytes.length + 9 ≤ (pad m).length ∧
    (∀ k, k % 64 = 0 → m.bytes.length + 9 ≤ k → (pad m).length ≤ k) ∧
    (blocks (pad m)).length = blockCount m.bytes.length ∧
    blockCount m.bytes.length =
      m.bytes.length / 64 + (if m.bytes.length % 64 ≤ 55 then 1 else 2) ∧
    (∀ q, q < m.bytes.length / 64 → (blocks (pad m))[q]? = some (blockAt m.bytes (64 * q)))

/-- R96 (injectivity is an inference the spec marks as its own): padding depends on the content of the message only by copying it, and Pad is injective. -/
def Obligations.PadIsInjective : Prop :=
  (∀ m₁ m₂ : Message, m₁.bytes.length = m₂.bytes.length →
    (pad m₁).drop m₁.bytes.length = (pad m₂).drop m₂.bytes.length) ∧
  (∀ m : Message, (pad m).take m.bytes.length = m.bytes) ∧
  (∀ m₁ m₂ : Message, pad m₁ = pad m₂ → m₁ = m₂)

/-- The tail completes the padded message: with q = |m| div 64, r = |m| mod 64 and buf any sequence of at least r bytes
whose first r are those of the unfinished block, Pad(m) = m[0..64q) ++ Tail(r, buf, |m|), of 64 bytes when r ≤ 55 and 128
when r ≥ 56; FINAL takes BUF for buf, and m[64q..|m|) itself will do (R95, an inference the spec marks as its own). -/
def Obligations.TailCompletesPad : Prop :=
  (∀ (m : Message) (buf : List Byte) (len : Len61), len.toNat = m.bytes.length →
    (∀ j, j < m.bytes.length % 64 → buf[j]? = m.bytes[64 * (m.bytes.length / 64) + j]?) →
    pad m = m.bytes.take (64 * (m.bytes.length / 64)) ++ tail (m.bytes.length % 64) buf len) ∧
  (∀ m : Message, pad m = m.bytes.take (64 * (m.bytes.length / 64)) ++
    tail (m.bytes.length % 64) (m.bytes.drop (64 * (m.bytes.length / 64))) m.len) ∧
  (∀ (r : Nat) (buf : List Byte) (n : Len61), r < 64 → r ≤ buf.length → n.toNat % 64 = r →
    (tail r buf n).length = if r ≤ 55 then 64 else 128)

/-! ### Blocks and schedule (41_block_schedule.md) -/

/-- R100: block i of P is P[64i..64i+64), for |P| div 64 blocks in increasing order. -/
def Obligations.BlocksInOrder : Prop :=
  ∀ P : List Byte, P.length % 64 = 0 →
    (blocks P).length = P.length / 64 ∧
    ∀ i (_ : i < (blocks P).length) k (_ : k < 64), some (blocks P)[i][k] = P[64 * i + k]?

/-- R101 and R52: the first sixteen schedule words are the block's bytes, four at a time, big-endian. -/
def Obligations.ScheduleStartsWithBlockWords : Prop :=
  ∀ (B : Block) (j : Nat) (_ : j < 16),
    (schedule B)[j].toNat =
      B[4 * j].toNat * 2 ^ 24 + B[4 * j + 1].toNat * 2 ^ 16 + B[4 * j + 2].toNat * 2 ^ 8 + B[4 * j + 3].toNat

/-- The recurrence of the schedule for i = 16 to 79 (R102), with its corner cases, of which the last, for the all-ones block,
is an inference the spec marks as its own (90_conflicts.md C12): an all-zero block gives all-zero words,
and an all-ones block gives zero at 16, 17 and 18, all ones at 19, and one of the two from there on. -/
def Obligations.ScheduleExpansion : Prop :=
  (∀ (B : Block) (i : Nat) (_ : 16 ≤ i) (_ : i < 80),
    (schedule B)[i] =
      rotl ((schedule B)[i - 3] ^^^ (schedule B)[i - 8] ^^^ (schedule B)[i - 14] ^^^ (schedule B)[i - 16]) 1) ∧
  (∀ i (_ : i < 80), (schedule (Vector.replicate 64 0x00))[i] = 0) ∧
  (∀ i (_ : 16 ≤ i) (_ : i ≤ 18), (schedule (Vector.replicate 64 0xFF))[i] = 0) ∧
  (schedule (Vector.replicate 64 0xFF))[19] = 0xFFFFFFFF ∧
  (∀ i (_ : 19 < i) (_ : i < 80), (schedule (Vector.replicate 64 0xFF))[i] = 0 ∨
    (schedule (Vector.replicate 64 0xFF))[i] = 0xFFFFFFFF)

/-- Which words of the all-ones block's schedule are all ones (the list R102 gives, an inference the spec marks as its own;
90_conflicts.md C12). -/
def Obligations.AllOnesScheduleIndices : Prop :=
  ∀ i (_ : 16 ≤ i) (_ : i < 80), (schedule (Vector.replicate 64 0xFF))[i] =
    if i ∈ [19, 20, 21, 24, 28, 29, 30, 34, 37, 43, 48, 50, 51, 54, 56, 58, 59, 61, 62, 68, 69, 70, 71, 72, 75, 78, 79]
    then 0xFFFFFFFF else 0

/-- The schedule is linear over XOR (R105, an inference the spec marks as its own). -/
def Obligations.ScheduleIsLinear : Prop :=
  ∀ (B B' : Block) (i : Nat) (_ : i < 80),
    (schedule (Vector.zipWith (· ^^^ ·) B B'))[i] = (schedule B)[i] ^^^ (schedule B')[i]

/-! ### Rounds (42_rounds.md) -/

/-- R111 to R114: which mixing function a round uses, as a formula and bit by bit: choice, parity, majority, parity. -/
def Obligations.MixingFunctions : Prop :=
  ∀ (t : Fin 80) (b c d : Word),
    (t.val ≤ 19 → mix t b c d = (b &&& c) ||| (~~~b &&& d) ∧
      ∀ k, k < 32 → (mix t b c d).getLsbD k = if b.getLsbD k then c.getLsbD k else d.getLsbD k) ∧
    (20 ≤ t.val → t.val ≤ 39 → mix t b c d = b ^^^ c ^^^ d) ∧
    (40 ≤ t.val → t.val ≤ 59 → mix t b c d = (b &&& c) ||| (b &&& d) ||| (c &&& d) ∧
      ∀ k, k < 32 → ((mix t b c d).getLsbD k = true ↔
        2 ≤ (b.getLsbD k).toNat + (c.getLsbD k).toNat + (d.getLsbD k).toNat)) ∧
    (60 ≤ t.val → mix t b c d = b ^^^ c ^^^ d)

/-- The identities of R122 (an inference the spec marks as its own) for the two functions a build may rewrite. -/
def Obligations.MixingFunctionsRewritten : Prop :=
  ∀ (t : Fin 80) (b c d : Word),
    (t.val ≤ 19 → mix t b c d = d ^^^ (b &&& (c ^^^ d))) ∧
    (40 ≤ t.val → t.val ≤ 59 →
      mix t b c d = (b &&& c) ||| (d &&& (b ||| c)) ∧
      mix t b c d = (b &&& c) ^^^ (b &&& d) ^^^ (c &&& d) ∧
      mix t b c d = mix t c b d ∧ mix t b c d = mix t b d c)

/-- R115: the constant of each round, exact at the boundaries. -/
def Obligations.RoundConstants : Prop :=
  ∀ t : Fin 80,
    (t.val ≤ 19 → roundConstant t = 0x5A827999) ∧
    (20 ≤ t.val → t.val ≤ 39 → roundConstant t = 0x6ED9EBA1) ∧
    (40 ≤ t.val → t.val ≤ 59 → roundConstant t = 0x8F1BBCDC) ∧
    (60 ≤ t.val → roundConstant t = 0xCA62C1D6)

/-- R116 and R117: temp is the five-term sum modulo 2^32, and then a, b, c, d, e take temp, a, b rotated by 30, c, d, all
from before the round. -/
def Obligations.RoundStep : Prop :=
  ∀ (t : Fin 80) (s : Working) (w : Word),
    (roundStep t s w).a.toNat =
      ((rotl s.a 5).toNat + (mix t s.b s.c s.d).toNat + s.e.toNat + (roundConstant t).toNat + w.toNat) % 2 ^ 32 ∧
    (roundStep t s w).b = s.a ∧
    (∀ k, k < 32 → (roundStep t s w).c.getLsbD ((k + 30) % 32) = s.b.getLsbD k) ∧
    (roundStep t s w).d = s.c ∧ (roundStep t s w).e = s.d

/-- Every round is a bijection on the working variables, with the inverse R121 gives (an inference the spec marks as its
own). -/
def Obligations.RoundIsInvertible : Prop :=
  ∀ (t : Fin 80) (w : Word),
    Function.Bijective (fun s => roundStep t s w) ∧
    ∀ s s' : Working, roundStep t s w = s' →
      s = ⟨s'.b, rotl s'.c 2, s'.d, s'.e,
        s'.a - rotl s'.b 5 - mix t (rotl s'.c 2) s'.d s'.e - roundConstant t - w⟩

/-- R119: the 80 rounds run in increasing order of t, each on the result of the one before and on W[t]. -/
def Obligations.RoundsRunInOrder : Prop :=
  ∀ (s : Working) (W : Schedule) (trace : Nat → Working), trace 0 = s →
    (∀ t (h : t < 80), trace (t + 1) = roundStep ⟨t, h⟩ (trace t) W[t]) → rounds s W = trace 80

/-- Where a word computed in a round goes: a, then b, then rotated by 30 c, then d, then e four rounds later (R120, an
inference the spec marks as its own). -/
def Obligations.WordFlowsThroughRounds : Prop :=
  ∀ (s : Working) (W : Schedule) (t : Nat) (h : t + 5 ≤ 80),
    let temp := (roundsUpTo s W (t + 1) (by omega)).a
    (roundsUpTo s W (t + 2) (by omega)).b = temp ∧
    (roundsUpTo s W (t + 3) (by omega)).c = rotl temp 30 ∧
    (roundsUpTo s W (t + 4) (by omega)).d = rotl temp 30 ∧
    (roundsUpTo s W (t + 5) h).e = rotl temp 30

/-! ### Compression, chaining and the digest (43_accumulate_serialize.md, 45_commands.md section 4) -/

/-- R130 and R131: a compression loads a..e from H, runs the 80 rounds on the block's schedule, and adds the result to H
by five separate additions modulo 2^32. -/
def Obligations.CompressAddsRoundsToHash : Prop :=
  ∀ (H : HashState) (B : Block),
    let s := rounds (loadWorking H) (schedule B)
    loadWorking H = ⟨H[0], H[1], H[2], H[3], H[4]⟩ ∧
    (compress H B)[0].toNat = (H[0].toNat + s.a.toNat) % 2 ^ 32 ∧
    (compress H B)[1].toNat = (H[1].toNat + s.b.toNat) % 2 ^ 32 ∧
    (compress H B)[2].toNat = (H[2].toNat + s.c.toNat) % 2 ^ 32 ∧
    (compress H B)[3].toNat = (H[3].toNat + s.d.toNat) % 2 ^ 32 ∧
    (compress H B)[4].toNat = (H[4].toNat + s.e.toNat) % 2 ^ 32

/-- R133 (its laws are inferences the spec marks as its own): chaining over no block is the identity, over one block is the compression, over whole blocks composes, and
Chain starts from IV. -/
def Obligations.ChainingComposes : Prop :=
  (∀ H : HashState, chainFrom H [] = H) ∧
  (∀ (H : HashState) (B : Block), chainFrom H B.toList = compress H B) ∧
  (∀ (H : HashState) (P Q : List Byte), P.length % 64 = 0 → Q.length % 64 = 0 →
    chainFrom H (P ++ Q) = chainFrom (chainFrom H P) Q) ∧
  (∀ P : List Byte, chain P = chainFrom #v[0x67452301, 0xEFCDAB89, 0x98BADCFE, 0x10325476, 0xC3D2E1F0] P)

/-- The invariant of phase ABSORBING (R159, an inference the spec marks as its own): INIT establishes it for the empty
message, each ABSORB extends it by its byte, and STATUS keeps it. -/
def Obligations.AbsorbedBytesInvariant : Prop :=
  (∀ s : State, ∃ t, exec .init s = .next t ∧ Absorbed [] t) ∧
  (∀ (m : List Byte) (b : Byte) (s : State), Absorbed m s → m.length < 2 ^ 61 - 1 →
    ∃ t, exec (.absorb b) s = .next t ∧ Absorbed (m ++ [b]) t) ∧
  (∀ (m : List Byte) (s : State), Absorbed m s → ∃ t, exec .status s = .next t ∧ Absorbed m t)

/-- The commands compute the document's function (R158, an inference the spec marks as its own): for every message of at
most 2^61 - 1 bytes and from any state of the engine, INIT, its ABSORBs and FINAL are all accepted, end in DONE, and leave
DIGEST = Digest(m); a READ i after them answers Digest(m)[i]. -/
def Obligations.CommandsComputeDigest : Prop :=
  ∀ (m : Message) (s : State) (rest : List HostAction),
    s.host = issue (digestCommands m.bytes) ++ rest →
    ∃ t, runSteps (m.bytes.length + 2) s = .next t ∧ Complete t ∧ t.host = rest ∧
      t.digest = digestOf m ∧
      t.rsps = s.rsps ++ List.replicate (m.bytes.length + 1) 0x0400 ++ [0x0800] ∧
      ∀ i (_ : i < 20), ∃ u, exec (.read i) t = .next u ∧
        u.rsps = t.rsps ++ [0x08#8 ++ (digestOf m)[i]]

/-- The MAC wrapper as a host program (R139, R162, the second an inference the spec marks as its own): absorbing the key
and then the message, with nothing between them, leaves Mac(k, m), which is Digest(k ++ m); an empty key or an empty message
is no exception (C2). -/
def Obligations.MacByConcatenation : Prop :=
  (∀ (k m : List Byte) (bounded : k.length + m.length < 2 ^ 61) (s : State) (rest : List HostAction),
    s.host = issue ([.init] ++ k.map .absorb ++ m.map .absorb ++ [.final]) ++ rest →
    ∃ t, runSteps (k.length + m.length + 2) s = .next t ∧ Complete t ∧ t.host = rest ∧
      t.digest = mac k m bounded) ∧
  (∀ (k m : List Byte) (bounded : k.length + m.length < 2 ^ 61) (km : Message),
    km.bytes = k ++ m → mac k m bounded = digestOf km) ∧
  (∀ m : Message, mac [] m.bytes (by simpa using m.bounded) = digestOf m ∧
    mac m.bytes [] (by simpa using m.bounded) = digestOf m)

/-- The length-extension structure the document requires to be recorded (R140, an inference the spec marks as its own):
the digest of m ++ G(m) ++ x follows from the digest of m, the lengths and x alone. -/
def Obligations.LengthExtensionStructure : Prop :=
  ∀ (m m' : Message) (x : List Byte),
    m'.bytes = m.bytes ++ padding m.len ++ x →
    chain (pad m') = chainFrom (chain (pad m)) ((pad m').drop (pad m).length) ∧
    digestOf m' = serialize (chainFrom (deserialize (digestOf m)) (x ++ padding m'.len))
end

