-- ==== Sys2Proof/Laws/Hash.lean ====
section
/-! SUPPORT. The small facts of the hash function's definitions: lengths, elements and unfolding equations. -/

namespace Sys2Proof.Machine

@[simp] theorem zeros_length (k : Nat) : (zeros k).length = k := by simp [zeros]

@[simp] theorem blockAt_getElem (P : List Byte) (off k : Nat) (h : k < 64) :
    (blockAt P off)[k] = P.getD (off + k) 0 := by simp [blockAt]

/-- The length field as a number: LEN × 8 never overflows (R11). -/
theorem bitLength_toNat (len : Len61) : (bitLength len).toNat = len.toNat * 8 := by
  show (len ++ 0#3 : BitVec (61 + 3)).toNat = _
  rw [BitVec.toNat_append, Nat.shiftLeft_eq]
  simp

theorem zpad_lt (n : Nat) : zpad n < 64 := Nat.mod_lt _ (by decide)

@[simp] theorem Message.len_toNat (m : Message) : m.len.toNat = m.bytes.length := by
  simp [Message.len]

theorem padding_length (n : Len61) : (padding n).length = 9 + zpad n.toNat := by
  simp [padding]; omega

theorem pad_length (m : Message) : (pad m).length = m.bytes.length + 9 + zpad m.bytes.length := by
  simp [pad, padding_length]; omega

theorem tail_length (r : Nat) (buf : List Byte) (hr : r ≤ buf.length) (len : Len61) :
    (tail r buf len).length = r + 9 + (119 - r) % 64 := by
  simp [tail]; omega

@[simp] theorem blocks_length (P : List Byte) : (blocks P).length = P.length / 64 := by simp [blocks]

/-- One more step of the schedule leaves the words already there. -/
theorem expand_succ_getElem (B : Block) (n j : Nat) (h : j < 16 + n) :
    (expand B (n + 1))[j] = (expand B n)[j] := by
  simp only [expand]
  rw [Vector.getElem_push_lt]

theorem roundsUpTo_zero (s : Working) (W : Schedule) (h : 0 ≤ 80) : roundsUpTo s W 0 h = s := rfl

theorem roundsUpTo_succ (s : Working) (W : Schedule) (t : Nat) (h : t + 1 ≤ 80) :
    roundsUpTo s W (t + 1) h = roundStep ⟨t, h⟩ (roundsUpTo s W t (Nat.le_of_succ_le h)) W[t] := rfl

section Round
variable (t : Fin 80) (s : Working) (w : Word)

@[simp] theorem roundStep_a : (roundStep t s w).a = roundTemp t s w := rfl
@[simp] theorem roundStep_b : (roundStep t s w).b = s.a := rfl
@[simp] theorem roundStep_c : (roundStep t s w).c = rotl s.b 30 := rfl
@[simp] theorem roundStep_d : (roundStep t s w).d = s.c := rfl
@[simp] theorem roundStep_e : (roundStep t s w).e = s.d := rfl

end Round

/-! ### Accumulation: one lemma per word, so that no later proof unfolds the rounds -/

section Accumulate
variable (H : HashState) (s : Working)

@[simp] theorem accumulate_0 : (accumulate H s)[0] = H[0] + s.a := rfl
@[simp] theorem accumulate_1 : (accumulate H s)[1] = H[1] + s.b := rfl
@[simp] theorem accumulate_2 : (accumulate H s)[2] = H[2] + s.c := rfl
@[simp] theorem accumulate_3 : (accumulate H s)[3] = H[3] + s.d := rfl
@[simp] theorem accumulate_4 : (accumulate H s)[4] = H[4] + s.e := rfl

end Accumulate

theorem compress_eq (H : HashState) (B : Block) :
    compress H B = accumulate H (rounds (loadWorking H) (schedule B)) := rfl

end Sys2Proof.Machine
end

