-- ==== Sys2Proof/Laws/State.lean ====
section
/-! SUPPORT. What each state operation does to each field, so that no later proof unfolds a record update. -/

namespace Sys2Proof.Machine

section Respond
variable (rej : Bool) (data : Byte) (s : State)

@[simp] theorem respond_phase : (respond rej data s).phase = s.phase := rfl
@[simp] theorem respond_cause : (respond rej data s).cause = s.cause := rfl
@[simp] theorem respond_h : (respond rej data s).h = s.h := rfl
@[simp] theorem respond_len : (respond rej data s).len = s.len := rfl
@[simp] theorem respond_buf : (respond rej data s).buf = s.buf := rfl
@[simp] theorem respond_digest : (respond rej data s).digest = s.digest := rfl
@[simp] theorem respond_host : (respond rej data s).host = s.host := rfl
@[simp] theorem respond_rsps :
    (respond rej data s).rsps = s.rsps ++ [responseWord rej s.cause s.phase data] := rfl
@[simp] theorem respond_resets : (respond rej data s).resets = s.resets := rfl

end Respond

section EnterFailed
variable (c : Cause) (s : State)

@[simp] theorem enterFailed_phase : (enterFailed c s).phase = .failed := by
  unfold enterFailed; split <;> simp [*]
@[simp] theorem enterFailed_cause :
    (enterFailed c s).cause = if s.phase = .failed then s.cause else c := by
  unfold enterFailed; split <;> rfl
@[simp] theorem enterFailed_h : (enterFailed c s).h = s.h := by unfold enterFailed; split <;> rfl
@[simp] theorem enterFailed_len : (enterFailed c s).len = s.len := by unfold enterFailed; split <;> rfl
@[simp] theorem enterFailed_buf : (enterFailed c s).buf = s.buf := by unfold enterFailed; split <;> rfl
@[simp] theorem enterFailed_digest : (enterFailed c s).digest = s.digest := by
  unfold enterFailed; split <;> rfl
@[simp] theorem enterFailed_host : (enterFailed c s).host = s.host := by unfold enterFailed; split <;> rfl
@[simp] theorem enterFailed_rsps : (enterFailed c s).rsps = s.rsps := by unfold enterFailed; split <;> rfl
@[simp] theorem enterFailed_resets : (enterFailed c s).resets = s.resets := by
  unfold enterFailed; split <;> rfl

end EnterFailed

section StartComputation
variable (s : State)

@[simp] theorem startComputation_phase : (startComputation s).phase = .absorbing := rfl
@[simp] theorem startComputation_cause : (startComputation s).cause = .none := rfl
@[simp] theorem startComputation_h : (startComputation s).h = initialHash := rfl
@[simp] theorem startComputation_len : (startComputation s).len = 0 := rfl
@[simp] theorem startComputation_buf : (startComputation s).buf = s.buf := rfl
@[simp] theorem startComputation_digest : (startComputation s).digest = s.digest := rfl
@[simp] theorem startComputation_host : (startComputation s).host = s.host := rfl
@[simp] theorem startComputation_rsps : (startComputation s).rsps = s.rsps := rfl
@[simp] theorem startComputation_resets : (startComputation s).resets = s.resets := rfl

end StartComputation

section ResetEngine
variable (s : State)

/-! The free values are left out on purpose: nothing is to be proved of H, LEN, BUF or DIGEST after a reset. -/

@[simp] theorem resetEngine_phase : (resetEngine s).phase = .idle := rfl
@[simp] theorem resetEngine_cause : (resetEngine s).cause = .none := rfl
@[simp] theorem resetEngine_host : (resetEngine s).host = s.host := rfl
@[simp] theorem resetEngine_rsps : (resetEngine s).rsps = s.rsps := rfl
@[simp] theorem resetEngine_resets : (resetEngine s).resets = s.resets + 1 := rfl

end ResetEngine

section AbsorbByte
variable (b : Byte) (s : State)

@[simp] theorem absorbByte_phase : (absorbByte b s).phase = s.phase := rfl
@[simp] theorem absorbByte_cause : (absorbByte b s).cause = s.cause := rfl
theorem absorbByte_h :
    (absorbByte b s).h = if pending s.len = 63 then compress s.h (absorbByte b s).buf else s.h := rfl
@[simp] theorem absorbByte_len : (absorbByte b s).len = s.len + 1 := rfl
theorem absorbByte_buf :
    (absorbByte b s).buf = s.buf.set (pending s.len) b (pending_lt s.len) := rfl
/-- BUF after an accepted ABSORB, cell by cell. -/
theorem absorbByte_buf_getElem (k : Nat) (hk : k < 64) :
    (absorbByte b s).buf[k] = if pending s.len = k then b else s.buf[k] := by
  rw [absorbByte_buf, Vector.getElem_set]
@[simp] theorem absorbByte_digest : (absorbByte b s).digest = s.digest := rfl
@[simp] theorem absorbByte_host : (absorbByte b s).host = s.host := rfl
@[simp] theorem absorbByte_rsps : (absorbByte b s).rsps = s.rsps := rfl
@[simp] theorem absorbByte_resets : (absorbByte b s).resets = s.resets := rfl

end AbsorbByte

section Finish
variable (s : State)

@[simp] theorem finish_phase : (finish s).phase = .done := rfl
@[simp] theorem finish_cause : (finish s).cause = s.cause := rfl
@[simp] theorem finish_h : (finish s).h = finalHash s := rfl
@[simp] theorem finish_len : (finish s).len = s.len := rfl
@[simp] theorem finish_buf : (finish s).buf = s.buf := rfl
@[simp] theorem finish_digest : (finish s).digest = serialize (finalHash s) := rfl
@[simp] theorem finish_host : (finish s).host = s.host := rfl
@[simp] theorem finish_rsps : (finish s).rsps = s.rsps := rfl
@[simp] theorem finish_resets : (finish s).resets = s.resets := rfl

end Finish

/-- H after FINAL: one compression of the tail or two. -/
theorem finalHash_eq (s : State) : finalHash s =
    if 56 ≤ pending s.len then
      compress (compress s.h (blockAt (tail (pending s.len) s.buf.toList s.len) 0))
        (blockAt (tail (pending s.len) s.buf.toList s.len) 64)
    else compress s.h (blockAt (tail (pending s.len) s.buf.toList s.len) 0) := rfl

end Sys2Proof.Machine
end

