-- ==== Sys2Proof/Laws/Ops.lean ====
section
/-! SUPPORT. One lemma per shared operation: all it can do. Later proofs cite these instead of unfolding it. -/

namespace Sys2Proof.Machine

/-! ### The host's next action -/

@[simp] theorem takeAction_nil {s : State} (h : s.host = []) : takeAction s = none := by
  simp [takeAction, h]

@[simp] theorem takeAction_cons {s : State} {a : HostAction} {rest : List HostAction} (h : s.host = a :: rest) :
    takeAction s = some (a, { s with host := rest }) := by
  simp [takeAction, h]

/-! ### The rejection -/

/-- `Reject(c)` leaves the state written out from R176 and R179. -/
theorem reject_eq (c : Cause) (s : State) : reject c s = rejectedWith c s := by
  unfold reject enterFailed rejectedWith respond responseWord
  split <;> simp_all [phaseCode]

section Reject
variable (c : Cause) (s : State)

@[simp] theorem reject_phase : (reject c s).phase = .failed := by simp [reject]
@[simp] theorem reject_cause : (reject c s).cause = if s.phase = .failed then s.cause else c := by
  simp [reject]
@[simp] theorem reject_h : (reject c s).h = s.h := by simp [reject]
@[simp] theorem reject_len : (reject c s).len = s.len := by simp [reject]
@[simp] theorem reject_buf : (reject c s).buf = s.buf := by simp [reject]
@[simp] theorem reject_digest : (reject c s).digest = s.digest := by simp [reject]
@[simp] theorem reject_host : (reject c s).host = s.host := by simp [reject]
@[simp] theorem reject_resets : (reject c s).resets = s.resets := by simp [reject]
theorem reject_rsps : (reject c s).rsps =
    s.rsps ++ [responseWord true (reject c s).cause .failed 0x00] := by simp [reject]

end Reject

/-! ### The checks -/

/-- The largest length as a number. -/
theorem eq_lenMax_iff (n : Len61) : n = lenMax ↔ n.toNat = 2 ^ 61 - 1 := by
  rw [← BitVec.toNat_inj]; simp [lenMax]

@[simp] theorem firstFailure_status (s : State) : firstFailure .status s = none := by
  simp [firstFailure, legalIn, badIndex, lenOverflow]

@[simp] theorem firstFailure_init (s : State) : firstFailure .init s = none := by
  simp [firstFailure, legalIn, badIndex, lenOverflow]

theorem firstFailure_absorb (b : Byte) (s : State) : firstFailure (.absorb b) s =
    if s.phase ≠ .absorbing then some .badPhase
    else if s.len.toNat = 2 ^ 61 - 1 then some .lenOverflow else none := by
  simp [firstFailure, legalIn, badIndex, lenOverflow, eq_lenMax_iff]

theorem firstFailure_final (s : State) : firstFailure .final s =
    if s.phase ≠ .absorbing then some .badPhase else none := by
  simp [firstFailure, legalIn, badIndex, lenOverflow]

theorem firstFailure_read (i : Nat) (s : State) : firstFailure (.read i) s =
    if s.phase ≠ .done then some .badPhase else if 20 ≤ i then some .badIndex else none := by
  simp [firstFailure, legalIn, badIndex, lenOverflow]

/-- No check of a command reports "no cause". -/
theorem firstFailure_ne_none {i : Instr} {s : State} {c : Cause} (h : firstFailure i s = some c) : c ≠ .none := by
  unfold firstFailure at h
  split_ifs at h <;> cases h <;> decide

/-! ### A transaction -/

/-- What an accepted command writes, apart from its response. -/
def effectOf : Instr → State → State
  | .status, s => s
  | .init, s => startComputation s
  | .absorb b, s => absorbByte b s
  | .final, s => finish s
  | .read _, s => s

/-- DATA of an accepted command. -/
def dataOf : Instr → State → Byte
  | .read i, s => digestByte i s
  | _, _ => 0x00

/-- A command either is rejected with the first failing cause, or has its effect and one accepting response. -/
theorem exec_eq (i : Instr) (s : State) : exec i s =
    match firstFailure i s with
    | some c => .next (reject c s)
    | none => .next (respond false (dataOf i s) (effectOf i s)) := by
  cases i <;> rfl

theorem exec_of_accepted {i : Instr} {s : State} (h : firstFailure i s = none) :
    exec i s = .next (respond false (dataOf i s) (effectOf i s)) := by rw [exec_eq, h]

theorem exec_of_rejected {i : Instr} {s : State} {c : Cause} (h : firstFailure i s = some c) :
    exec i s = .next (reject c s) := by rw [exec_eq, h]

/-- Inversion of `exec`: the two things a command can do. -/
theorem exec_cases {i : Instr} {s t : State} (h : exec i s = .next t) :
    (∃ c, firstFailure i s = some c ∧ t = reject c s) ∨
      firstFailure i s = none ∧ t = respond false (dataOf i s) (effectOf i s) := by
  rw [exec_eq] at h
  cases hf : firstFailure i s with
  | some c => rw [hf] at h; cases h; exact .inl ⟨c, rfl, rfl⟩
  | none => rw [hf] at h; cases h; exact .inr ⟨rfl, rfl⟩

/-- Inversion of `step`: the four things a step can do. -/
theorem step_cases {s t : State} (h : step s = .next t) :
    (s.host = [] ∧ t = s) ∨
    (∃ rest, s.host = .reset :: rest ∧ t = resetEngine { s with host := rest }) ∨
    (∃ w rest i, s.host = .command w :: rest ∧ decode w = .instr i ∧ exec i { s with host := rest } = .next t) ∨
    (∃ w rest why, s.host = .command w :: rest ∧ decode w = .illegal why ∧
      t = reject .illegalCmd { s with host := rest }) := by
  unfold step at h
  rcases hh : s.host with _ | ⟨_ | _, rest⟩
  · rw [takeAction_nil hh] at h; cases h; exact .inl ⟨rfl, rfl⟩
  · rename_i w
    rw [takeAction_cons hh] at h
    cases hd : decode w with
    | instr i => simp only [hd] at h; exact .inr (.inr (.inl ⟨w, rest, i, rfl, hd, h⟩))
    | illegal why =>
      simp only [hd, execIllegal] at h; cases h
      exact .inr (.inr (.inr ⟨w, rest, why, rfl, hd, rfl⟩))
  · rw [takeAction_cons hh] at h; cases h; exact .inr (.inl ⟨rest, rfl, rfl⟩)

/-! ### Runs -/

theorem runSteps_succ {k : Nat} {s t : State} (h : step s = .next t) : runSteps (k + 1) s = runSteps k t := by
  simp [runSteps, h]

theorem host_run_succ {M : Host.Core} {k : Nat} {s t : M.State} (h : M.step s = .next t) :
    M.run (k + 1) s = M.run k t := by
  simp [Host.Core.run, h]

theorem host_run_refused {M : Host.Core} {k : Nat} {s : M.State} {r : M.Refusal} (h : M.step s = .refused r) :
    M.run (k + 1) s = .refused r := by
  simp [Host.Core.run, h]

/-- A run of the model is the host's own run of the machine. -/
theorem core_run_eq (k : Nat) (s : State) : core.run k s = runSteps k s := by
  induction k generalizing s with
  | zero => rfl
  | succ k ih =>
    cases hs : step s with
    | next t => exact (host_run_succ (M := core) hs).trans ((ih t).trans (runSteps_succ hs).symm)
    | fault r => exact nomatch r
    | refused r =>
      exact (host_run_refused (M := core) hs).trans
        (show (.refused r : Result) = runSteps (k + 1) s by simp [runSteps, hs])

end Sys2Proof.Machine
end

