-- ==== Sys2Proof/Laws/PerInstr.lean ====
section
/-! SUPPORT. Statements made per instruction, as syntax: the family of LAWS.json. -/

namespace Sys2Proof.Laws.EncodeMatchesTable

/-- `match` and `mask` of the row of an instruction (spec/30_encoding.md R72). -/
def row : Instr → PortWord × PortWord
  | .status => (0x0000, 0xFFFF)
  | .init => (0x0100, 0xFFFF)
  | .absorb _ => (0x0200, 0xFF00)
  | .final => (0x0300, 0xFFFF)
  | .read _ => (0x0400, 0xFF00)

/-- The word of an instruction spells its row: the masked bits are the row's match. -/
def Statement (i : Instr) : Prop := encode i &&& (row i).2 = (row i).1

/-- An OP byte under the mask 0xFF00 is what the row gives. -/
theorem masked (op arg : BitVec 8) : (op ++ arg : BitVec 16) &&& 0xFF00 = op ++ 0x00#8 := by
  have mask : (0xFF00 : BitVec 16) = BitVec.allOnes 8 ++ 0#8 := by decide
  rw [mask, BitVec.and_append, BitVec.and_allOnes, BitVec.and_zero]

theorem status : Statement .status := by unfold Statement; decide
theorem init : Statement .init := by unfold Statement; decide
theorem absorb (b : Byte) : Statement (.absorb b) := masked 0x02 b
theorem final : Statement .final := by unfold Statement; decide
theorem read (i : Nat) : Statement (.read i) := masked 0x04 (BitVec.ofNat 8 i)

end Sys2Proof.Laws.EncodeMatchesTable
end

