-- ==== Sys2Proof/Tests/Slice0.lean ====
section
/-! SUPPORT. The model's own tests. Expected values come from the spec: 95_test_vectors.md (section numbers beside each
test), 30_encoding.md and the rules named. The second half shows, for every statement with hypotheses, a concrete input
that meets them, at the boundaries of each clause. -/

namespace Sys2Proof.Machine.Tests

/-- The state a meaning or a step answers with. -/
def after : Result → Option State
  | .next t => some t
  | _ => none

/-- The engine in a phase, with the rest as after reset. -/
def inPhase (p : Phase) (c : Cause) : State := { State.reset with phase := p, cause := c }

/-- The engine with one host action to take. -/
def facing (a : HostAction) (s : State) : State := { s with host := [a] }

/-- ABSORBING with the bytes of "abc" absorbed (R159). -/
def abc : State :=
  { State.reset with
    phase := .absorbing
    h := initialHash
    len := 3
    buf := (((Vector.replicate 64 (0 : Byte)).set 0 0x61).set 1 0x62).set 2 0x63 }

/-- ABSORBING with 63 bytes 'a' absorbed (95_test_vectors.md 3.4, after command 63). -/
def sixtyThree : State :=
  { State.reset with phase := .absorbing, h := initialHash, len := 63, buf := Vector.replicate 64 0x61 }

/-- A DONE state whose digest is the bytes 0x80, 0x81, ... 0x93. -/
def digestState : State :=
  { inPhase .done .none with digest := Vector.ofFn fun i => BitVec.ofNat 8 (0x80 + i.val) }

/-- The same at another length. -/
def abcAt (n : Len61) : State := { abc with len := n }

/-- The message "abc". -/
def msgAbc : Message := ⟨[0x61, 0x62, 0x63], by decide⟩

/-- `'a'×n`. -/
def msgA (n : Nat) (h : n < 2 ^ 61) : Message := ⟨List.replicate n 0x61, by simpa using h⟩

/-! ### WellFormed and the encodings (30_encoding.md sections 3 to 5, 95_test_vectors.md 2.10) -/

theorem test_wf_read_index_256_is_refused : WellFormed (.read 256) = false := by decide
theorem test_wf_read_index_255_is_well_formed : WellFormed (.read 255) = true := by decide

theorem test_decode_status : decode 0b0000000000000000#16 = .instr .status := by decide
theorem test_decode_init : decode 0b0000000100000000#16 = .instr .init := by decide
theorem test_decode_absorb_a : decode 0b0000001001100001#16 = .instr (.absorb 0x61) := by decide
theorem test_decode_final : decode 0b0000001100000000#16 = .instr .final := by decide
theorem test_decode_read_19 : decode 0b0000010000010011#16 = .instr (.read 19) := by decide
/-- R73: 0x0434 asks for index 52. -/
theorem test_decode_read_52 : decode 0x0434#16 = .instr (.read 52) := by decide
theorem test_decode_init_with_arg : decode 0x0101#16 = .illegal (.argNotZero 0x01 0x01) := by decide
theorem test_decode_lowest_unassigned_op : decode 0x0500#16 = .illegal (.unassignedOp 0x05) := by decide

theorem test_table_words_decode :
    decodeTableWord 16 0x0000 = some .status ∧ decodeTableWord 16 0x0100 = some .init ∧
    decodeTableWord 16 0x02FF = some (.absorb 0xFF) ∧ decodeTableWord 16 0x0300 = some .final ∧
    decodeTableWord 16 0x04FF = some (.read 255) ∧ decodeTableWord 16 0x8000 = none := by decide

/-- 95_test_vectors.md 2.11 rows 17, 4, 3 and 1: the first command after reset. -/
theorem test_first_command_after_reset :
    ((after (step (State.reset.withFetchWord 16 0x0000))).map (·.rsps) = some [0x0000]) ∧
    ((after (step (State.reset.withFetchWord 16 0x0100))).map (·.rsps) = some [0x0400]) ∧
    ((after (step (State.reset.withFetchWord 16 0x0261))).map (·.rsps) = some [0xAC00]) ∧
    ((after (step (State.reset.withFetchWord 16 0x0300))).map (·.rsps) = some [0xAC00]) ∧
    ((after (step (State.reset.withFetchWord 16 0x0400))).map (·.rsps) = some [0xAC00]) ∧
    ((after (step (State.reset.withFetchWord 16 0xFFFF))).map (·.rsps) = some [0x9C00]) := by decide

/-! ### The five commands (95_test_vectors.md 2.10, 2.11, 3) -/

theorem test_status_in_done : (after (exec .status (inPhase .done .none))).map (·.rsps) = some [0x0800] := by decide
theorem test_status_in_failed_keeps_state :
    after (exec .status (inPhase .failed .badIndex)) =
      some { inPhase .failed .badIndex with rsps := [0x3C00] } := by decide

/-- R153: INIT clears CAUSE in FAILED and does not touch BUF. -/
theorem test_init_recovers : after (exec .init { digestState with phase := .failed, cause := .badPhase }) =
    some { digestState with
      phase := .absorbing
      h := #v[0x67452301, 0xEFCDAB89, 0x98BADCFE, 0x10325476, 0xC3D2E1F0]
      rsps := [0x0400] } := by decide

/-- 2.11: the ABSORB at LEN = 2^61 - 1 is rejected and stores nothing. -/
theorem test_absorb_overflow : after (exec (.absorb 0x61) (abcAt (BitVec.allOnes 61))) =
    some { abcAt (BitVec.allOnes 61) with phase := .failed, cause := .lenOverflow, rsps := [0xCC00] } := by decide
/-- 3.4: the 64th byte compresses inside the command. -/
theorem test_absorb_sixty_fourth_byte : (after (exec (.absorb 0x61) sixtyThree)).map (fun t => (t.len, t.h, t.rsps)) =
      some (64, #v[0xDA4968EB, 0x2E377C1F, 0x884E8F52, 0x83524BEB, 0xE74EBDBD], [0x0400]) := by decide +kernel

/-- 3.2: FINAL after "abc". -/
theorem test_final_abc : (after (exec .final abc)).map (fun t => (t.phase, t.len, t.digest, t.rsps)) =
    some (.done, 3, #v[0xa9, 0x99, 0x3e, 0x36, 0x47, 0x06, 0x81, 0x6a, 0xba, 0x3e,
      0x25, 0x71, 0x78, 0x50, 0xc2, 0x6c, 0x9c, 0xd0, 0xd8, 0x9d], [0x0800]) := by decide +kernel
/-- 2.7: FINAL after 63 bytes 'a' compresses twice. -/
theorem test_final_two_tail_blocks : (after (exec .final sixtyThree)).map (·.digest) =
    some #v[0x03, 0xf0, 0x9f, 0x5b, 0x15, 0x8a, 0x7a, 0x8c, 0xda, 0xd9,
      0x20, 0xbd, 0xdc, 0x29, 0xb8, 0x1c, 0x18, 0xa5, 0x51, 0xf5] := by decide +kernel

theorem test_read_last_byte : (after (exec (.read 19) digestState)).map (·.rsps) = some [0x0893] := by decide
/-- 2.11 row 13: READ 20 in DONE. -/
theorem test_read_20_is_bad_index : after (exec (.read 20) digestState) =
    some { digestState with phase := .failed, cause := .badIndex, rsps := [0xBC00] } := by decide

/-- 2.11 row 15: the first cause wins over a later illegal word. -/
theorem test_illegal_word_in_failed : after (step (facing (.command 0x0500) (inPhase .failed .badPhase))) =
    some { inPhase .failed .badPhase with rsps := [0xAC00] } := by decide
/-- R190: a reset gives no response. -/
theorem test_reset_in_failed : (after (step (facing .reset (inPhase .failed .badPhase)))).map
    (fun t => (t.phase, t.cause, t.rsps, t.host)) = some (.idle, .none, [], []) := by decide
/-- R184: with nothing offered the engine waits. -/
theorem test_waiting : after (step abc) = some abc := by decide

/-! ### The parts of the hash function (95_test_vectors.md 2.1 to 2.8) -/

theorem test_rotl : rotl 0x80000001 1 = 0x00000003 ∧ rotl 0x12345678 5 = 0x468ACF02 ∧
    rotl 0x12345678 30 = 0x048D159E := by decide
theorem test_zpad : (List.map zpad [0, 3, 54, 55, 56, 63, 64, 128]) = [55, 52, 1, 0, 63, 56, 55, 55] := by decide
/-- 2.1: the length field of 2^61 - 1 bytes. -/
theorem test_length_field_extreme : be64 (bitLength (BitVec.allOnes 61)) =
    #v[0xff, 0xff, 0xff, 0xff, 0xff, 0xff, 0xff, 0xf8] := by decide
/-- R95's example: `Tail(3, "abc", 3)` is `Pad("abc")`. -/
theorem test_tail_abc : tail 3 [0x61, 0x62, 0x63] 3 =
    [0x61, 0x62, 0x63, 0x80] ++ List.replicate 52 0x00 ++ [0, 0, 0, 0, 0, 0, 0, 0x18] := by decide
theorem test_tail_65 : tail 1 (List.replicate 64 0x61) 65 =
    [0x61, 0x80] ++ List.replicate 60 0x00 ++ [0x02, 0x08] := by decide
theorem test_schedule_abc :
    (schedule (blockAt (pad msgAbc) 0))[0] = 0x61626380 ∧ (schedule (blockAt (pad msgAbc) 0))[19] = 0x85898E01 ∧
    (schedule (blockAt (pad msgAbc) 0))[79] = 0x822E0879 := by decide +kernel
theorem test_mix :
    (List.map (fun t => mix t 0xF0F0F0F0 0xCCCCCCCC 0xAAAAAAAA) [0, 19, 20, 39, 40, 59, 60, 79]) =
      [0xCACACACA, 0xCACACACA, 0x96969696, 0x96969696, 0xE8E8E8E8, 0xE8E8E8E8, 0x96969696, 0x96969696] := by decide
/-- R115: each constant is floor(2^30 sqrt n), n = 2, 3, 5, 10. -/
theorem test_round_constants_are_square_roots :
    ∀ p ∈ [((0 : Fin 80), 2), (20, 3), (40, 5), (60, 10)],
      (roundConstant p.1).toNat ^ 2 ≤ p.2 * 2 ^ 60 ∧ p.2 * 2 ^ 60 < ((roundConstant p.1).toNat + 1) ^ 2 := by decide
/-- 2.4: round 0 of "abc". -/
theorem test_round_0 : roundStep 0 (loadWorking initialHash) 0x61626380 =
    ⟨0x0116FC33, 0x67452301, 0x7BF36AE2, 0x98BADCFE, 0x10325476⟩ := by decide
/-- 2.3: one round with K[2]. -/
theorem test_round_40 : roundStep 40 ⟨1, 2, 3, 4, 5⟩ 6 = ⟨0x8F1BBD09, 1, 0x80000000, 3, 4⟩ := by decide
theorem test_serialize : serialize #v[0x00000001, 0x00000000, 0x80000000, 0x00FF00FF, 0x12345678] =
    #v[0x00, 0x00, 0x00, 0x01, 0x00, 0x00, 0x00, 0x00, 0x80, 0x00, 0x00, 0x00, 0x00, 0xff, 0x00, 0xff,
      0x12, 0x34, 0x56, 0x78] := by decide
/-- 1.2: the document's digest of the empty message. -/
theorem test_digest_empty : digestOf ⟨[], by decide⟩ =
    #v[0xda, 0x39, 0xa3, 0xee, 0x5e, 0x6b, 0x4b, 0x0d, 0x32, 0x55, 0xbf, 0xef, 0x95, 0x60, 0x18, 0x90,
      0xaf, 0xd8, 0x07, 0x09] := by decide +kernel
/-- 2.7: three blocks. -/
theorem test_digest_three_blocks : chain (pad (msgA 120 (by decide))) =
    #v[0xF34C1488, 0x385346A5, 0x5709BA05, 0x6DDD0828, 0x0DD4C6D6] := by decide +kernel

/-! ### Witnesses: the hypotheses of the statements are met -/

theorem witness_ReservedWordsAreRejected :
    (facing (.command 0x0500) (inPhase .failed .badPhase)).host = .command 0x0500 :: [] ∧
    decode 0x0500 = .illegal (.unassignedOp 0x05) ∧ decode 0x03FF = .illegal (.argNotZero 0x03 0xFF) := by decide
theorem witness_DecodeOfEncode : WellFormed (.read 255) = true ∧ WellFormed (.absorb 0xFF) = true := by decide
theorem witness_EncodeOfDecode : decode 0x04FF = .instr (.read 255) := by decide
theorem witness_StepRunsDecodedCommand :
    (facing (.command 0x0280) abc).host = .command 0x0280 :: [] ∧ decode 0x0280 = .instr (.absorb 0x80) ∧
    (facing (.command 0xFFFF) abc).host = .command 0xFFFF :: [] ∧ decode 0xFFFF = .illegal (.unassignedOp 0xFF) ∧
    (facing .reset abc).host = .reset :: [] ∧ abc.host = [] := by decide

/-- One state per clause: a rejected command, an accepted one without data, and an accepted READ of the last byte. -/
theorem witness_OneResponsePerCommand :
    (facing (.command 0x0413) digestState).host = .command 0x0413 :: [] ∧ decode 0x0413 = .instr (.read 19) ∧
    digestState.phase = .done ∧
    ((after (step (facing (.command 0x0413) digestState))).map (fun t => t.rsps.map (·.getLsbD 15)) = some [false]) ∧
    ((after (step (facing (.command 0x0414) digestState))).map (fun t => t.rsps.map (·.getLsbD 15)) = some [true]) := by
  decide
theorem witness_ResponseWordsThatOccur :
    (facing (.command 0x0300) abc).host = .command 0x0300 :: [] ∧ PhaseInv (facing (.command 0x0300) abc) := by
  simp [facing, PhaseInv, abc, State.reset]

theorem witness_StatusReportsPhaseAndCause :
    (inPhase .failed .badPhase).phase = .failed ∧ (inPhase .failed .badPhase).cause = .badPhase ∧
    (0x01 : BitVec 8) ≠ 0 ∧ (0xFF : BitVec 8) ≠ 0 := by decide
theorem witness_InitStartsComputation :
    (after (exec .init abc)).bind (fun t => after (exec .init t)) ≠ none ∧ (0x01 : BitVec 8) ≠ 0 := by decide
/-- The largest length an ABSORB accepts, the 64th byte of a block, another phase, and the length it rejects. -/
theorem witness_AbsorbStoresOneByte :
    ((abcAt 0x1FFFFFFFFFFFFFFE).phase = .absorbing ∧ (abcAt 0x1FFFFFFFFFFFFFFE).len.toNat ≠ 2 ^ 61 - 1 ∧
      (abcAt 0x1FFFFFFFFFFFFFFE).len.toNat + 1 = 2 ^ 61 - 1) ∧
    (sixtyThree.phase = .absorbing ∧ sixtyThree.len.toNat ≠ 2 ^ 61 - 1 ∧ sixtyThree.len.toNat % 64 = 63) ∧
    State.reset.phase ≠ .absorbing ∧
    (abcAt (BitVec.allOnes 61)).phase = .absorbing ∧ (abcAt (BitVec.allOnes 61)).len.toNat = 2 ^ 61 - 1 := by decide
/-- One tail block at LEN mod 64 = 55, two at 56, and another phase. -/
theorem witness_FinalWritesDigest :
    ((abcAt 55).phase = .absorbing ∧ (abcAt 55).len.toNat % 64 ≤ 55) ∧
    ((abcAt 56).phase = .absorbing ∧ 56 ≤ (abcAt 56).len.toNat % 64) ∧
    digestState.phase ≠ .absorbing ∧ (0x01 : BitVec 8) ≠ 0 := by decide
theorem witness_ReadReturnsDigestByte :
    19 < 20 ∧ digestState.phase = .done ∧ 20 ≤ 20 ∧ abc.phase ≠ .done := by decide

theorem witness_FirstFailingCheckDecides :
    (facing (.command 0x04C8) abc).host = .command 0x04C8 :: [] ∧ decode 0x04C8 = .instr (.read 200) ∧
    abc.phase ≠ .done ∧ (facing (.command 0x0414) digestState).phase = .done ∧
    decode 0x0414 = .instr (.read 20) ∧ decode 0x0413 = .instr (.read 19) := by decide
theorem witness_RejectionWritesPhaseAndCause : Cause.lenOverflow ≠ .none ∧ Cause.illegalCmd ≠ .none := by decide
theorem witness_RejectionInFailedChangesNothing :
    let s := facing (.command 0x0400) (inPhase .failed .badPhase)
    let u := facing (.command 0x0100) (inPhase .failed .badPhase)
    s.phase = .failed ∧ s.host = .command 0x0400 :: [] ∧ (0x0400 : PortWord) ≠ 0x0000 ∧ (0x0400 : PortWord) ≠ 0x0100 ∧
    u.phase = .failed ∧ u.host = .command 0x0100 :: [] := by decide
theorem witness_OnlyInitAndResetLeaveFailed :
    (inPhase .failed .badIndex).phase = .failed ∧
    ((after (step (facing (.command 0x0100) (inPhase .failed .badIndex)))).map (·.phase) = some .absorbing) ∧
    ((after (step (facing .reset (inPhase .failed .badIndex)))).map (·.phase) = some .idle) := by decide
theorem witness_FailedRunGivesNoDigest :
    GoneWrong (facing (.command 0x0400) (inPhase .failed .badIndex)) ∧
    ∀ a ∈ (facing (.command 0x0400) (inPhase .failed .badIndex)).host, isRestart a = false := by
  unfold GoneWrong; decide
theorem witness_ErrAndReadyFlags :
    (errFlag (facing (.command 0x0100) (inPhase .failed .badPhase)) = true ∧
      (after (step (facing (.command 0x0100) (inPhase .failed .badPhase)))).map errFlag = some false) ∧
    (errFlag (facing .reset (inPhase .failed .badPhase)) = true ∧
      (after (step (facing .reset (inPhase .failed .badPhase)))).map errFlag = some false) ∧
    (readyFlag (facing (.command 0x0300) abc) = false ∧
      (after (step (facing (.command 0x0300) abc))).map readyFlag = some true) := by decide

/-- Each writer of H does write it: INIT, the 64th ABSORB and FINAL. -/
theorem witness_WritersOfHashState :
    ((after (step (facing (.command 0x0100) State.reset))).map (fun t => decide (t.h ≠ State.reset.h)) = some true) ∧
    ((after (step (facing (.command 0x0261) sixtyThree))).map (fun t => decide (t.h ≠ sixtyThree.h)) = some true) ∧
    ((after (step (facing (.command 0x0300) abc))).map (fun t => decide (t.h ≠ abc.h)) = some true) := by decide +kernel
theorem witness_WritersOfLength :
    ((after (step (facing (.command 0x0100) abc))).map (fun t => decide (t.len ≠ abc.len)) = some true) ∧
    ((after (step (facing (.command 0x0261) abc))).map (fun t => decide (t.len ≠ abc.len)) = some true) := by decide
theorem witness_WritersOfBlockBuffer :
    (after (step (facing (.command 0x0264) abc))).map (fun t => decide (t.buf[3] ≠ abc.buf[3])) = some true := by decide
theorem witness_WritersOfDigest :
    (after (step (facing (.command 0x0300) abc))).map (fun t => decide (t.digest ≠ abc.digest)) = some true := by
  decide +kernel

theorem witness_StepKeepsPhaseInv :
    PhaseInv (facing (.command 0x0414) { digestState with digest := serialize digestState.h }) ∧
    (after (step (facing (.command 0x0414) { digestState with digest := serialize digestState.h }))).isSome = true := by
  refine ⟨?_, by decide⟩
  simp [facing, PhaseInv, digestState, inPhase]
theorem witness_ResetEntryPoint : State.reset.phase = .idle ∧ (inPhase .idle .badPhase).phase = .idle := by decide
theorem witness_ResetForgetsEverything :
    (facing .reset abc).host = .reset :: [] ∧ (facing .reset digestState).host = (facing .reset abc).host ∧
    (facing .reset digestState).rsps = (facing .reset abc).rsps := by decide
theorem witness_InitForgetsHistory : abc.host = digestState.host ∧ abc.rsps = digestState.rsps ∧ abc ≠ digestState := by
  decide
/-- Two different states that the host cannot tell apart: stale bytes in BUF beyond LEN mod 64, another DIGEST. -/
theorem witness_UnobservableStateNeverLeaks :
    let t : State := { abc with buf := abc.buf.set 3 0xFF, digest := digestState.digest, resets := 7 }
    ObsEq abc t ∧ abc ≠ t := by
  refine ⟨⟨rfl, rfl, rfl, rfl, fun _ => ⟨rfl, rfl, ?_⟩, by decide⟩, by decide⟩
  intro k hk
  have : k < 3 := hk
  interval_cases k <;> rfl

theorem witness_WordArithmetic : 0 < 1 ∧ 1 < 32 ∧ 31 < 32 ∧ (rotl 0x80000000 1).getLsbD ((31 + 1) % 32) = true := by
  decide
theorem witness_BigEndianConversions : (be32 0x11223344)[3] = 0x44 ∧ 3 < 4 ∧
    (be64 0x1122334455667788)[7] = 0x88 ∧ 7 < 8 := by decide
theorem witness_SerializeIndexMap : (serialize initialHash)[19] = 0xF0 ∧ 19 < 20 := by decide
theorem witness_ZpadIsLeast :
    (64 + 1 + 55) % 64 = 56 ∧ 55 % 64 ≤ 55 ∧ 56 ≤ 56 % 64 := by decide
theorem witness_PadLayout :
    msgAbc.bytes.length + 1 ≤ 4 ∧ 4 < msgAbc.bytes.length + 1 + zpad msgAbc.bytes.length ∧
    55 < msgAbc.bytes.length + 1 + zpad msgAbc.bytes.length := by decide
theorem witness_PaddedBlockCount :
    0 < (msgA 64 (by decide)).bytes.length / 64 ∧ 128 % 64 = 0 ∧ (msgA 64 (by decide)).bytes.length + 9 ≤ 128 := by decide
theorem witness_PadIsInjective :
    msgAbc.bytes.length = (msgA 3 (by decide)).bytes.length ∧ msgAbc ≠ msgA 3 (by decide) ∧ pad msgAbc = pad msgAbc := by
  decide
theorem witness_TailCompletesPad :
    (3 : Len61).toNat = msgAbc.bytes.length ∧
    (∀ j, j < msgAbc.bytes.length % 64 →
      abc.buf.toList[j]? = msgAbc.bytes[64 * (msgAbc.bytes.length / 64) + j]?) ∧
    3 ≤ [(0x61 : Byte), 0x62, 0x63].length ∧ (3 : Len61).toNat % 64 = 3 := by
  refine ⟨rfl, fun j hj => ?_, by decide, by decide⟩
  have : j < 3 := hj
  interval_cases j <;> rfl
/-- The boundary of one tail block and two: r = 55 and r = 56, and the largest r. -/
theorem witness_TailCompletesPad_boundaries :
    (tail 55 (List.replicate 55 0x61) 55).length = 64 ∧ (55 : Len61).toNat % 64 = 55 ∧
    (tail 56 (List.replicate 56 0x61) 56).length = 128 ∧ (56 : Len61).toNat % 64 = 56 ∧
    (tail 63 (List.replicate 63 0x61) 63).length = 128 ∧ (63 : Len61).toNat % 64 = 63 := by
  simp [tail_length]
theorem witness_BlocksInOrder :
    (List.replicate 128 (0x61 : Byte)).length % 64 = 0 ∧ 1 < (blocks (List.replicate 128 (0x61 : Byte))).length := by
  simp only [blocks_length, List.length_replicate]; decide
theorem witness_ScheduleExpansion : 16 ≤ 16 ∧ 16 < 80 ∧ 16 ≤ 79 ∧ 79 < 80 := by decide
theorem witness_ScheduleStartsWithBlockWords : 15 < 16 ∧
    (schedule (blockAt (pad msgAbc) 0))[15] = 0x00000018 := by decide +kernel
theorem witness_ScheduleIsLinear : 79 < 80 ∧ blockAt (pad msgAbc) 0 ≠ Vector.replicate 64 0xFF := by decide +kernel
theorem witness_AllOnesScheduleIndices : 16 ≤ 16 ∧ 79 < 80 := by decide
/-- The boundaries 19, 20, 39, 40, 59 and 60 serve RoundConstants and MixingFunctionsRewritten too. -/
theorem witness_MixingFunctions :
    (19 : Fin 80).val ≤ 19 ∧ 20 ≤ (20 : Fin 80).val ∧ (39 : Fin 80).val ≤ 39 ∧ 40 ≤ (40 : Fin 80).val ∧
    (59 : Fin 80).val ≤ 59 ∧ 60 ≤ (60 : Fin 80).val := by decide
theorem witness_RoundConstants :
    List.map roundConstant [19, 20, 39, 40, 59, 60] =
      [0x5A827999, 0x6ED9EBA1, 0x6ED9EBA1, 0x8F1BBCDC, 0x8F1BBCDC, 0xCA62C1D6] := by decide
theorem witness_RoundStep : 31 < 32 ∧ (roundStep 0 ⟨0, 0x80000000, 0, 0, 0⟩ 0).c = 0x20000000 := by decide
theorem witness_RoundIsInvertible : ∃ s', roundStep 79 (loadWorking initialHash) 0x80000000 = s' := ⟨_, rfl⟩
theorem witness_RoundsRunInOrder (s : Working) (W : Schedule) : ∃ trace : Nat → Working,
    trace 0 = s ∧ ∀ t (h : t < 80), trace (t + 1) = roundStep ⟨t, h⟩ (trace t) W[t] := by
  refine ⟨fun t => if h : t ≤ 80 then roundsUpTo s W t h else s, ?_, fun t h => ?_⟩
  · simp [roundsUpTo]
  · simp [Nat.succ_le_of_lt h, Nat.le_of_lt h, roundsUpTo]
theorem witness_WordFlowsThroughRounds : 75 + 5 ≤ 80 := by decide
theorem witness_ChainingComposes :
    (List.replicate 64 (0 : Byte)).length % 64 = 0 ∧ (List.replicate 128 (1 : Byte)).length % 64 = 0 := by
  simp only [List.length_replicate]; decide
theorem witness_AbsorbedBytesInvariant : Absorbed msgAbc.bytes abc ∧ msgAbc.bytes.length < 2 ^ 61 - 1 := by
  refine ⟨⟨rfl, rfl, rfl, ?_, fun j hj => ?_⟩, by decide⟩
  · decide +kernel
  · have : j < 3 := hj
    interval_cases j <;> rfl
theorem witness_CommandsComputeDigest :
    ({ State.reset with host := issue (digestCommands msgAbc.bytes) ++ [.reset] } : State).host =
      issue (digestCommands msgAbc.bytes) ++ [.reset] := rfl
theorem witness_MacByConcatenation :
    ([0x6b] : List Byte).length + ([] : List Byte).length < 2 ^ 61 ∧
    ({ State.reset with host := issue ([.init] ++ ([0x6b] : List Byte).map .absorb ++ [].map .absorb ++ [.final]) } :
        State).host = issue ([.init] ++ ([0x6b] : List Byte).map .absorb ++ [].map .absorb ++ [.final]) ++ [] ∧
    msgAbc.bytes = [0x61] ++ [0x62, 0x63] := by decide
theorem witness_LengthExtensionStructure : ∃ m' : Message,
    m'.bytes = msgAbc.bytes ++ padding msgAbc.len ++ [0x58] :=
  ⟨⟨msgAbc.bytes ++ padding msgAbc.len ++ [0x58], by decide⟩, rfl⟩

end Sys2Proof.Machine.Tests
end

/-! PROOFS. The word arithmetic of spec/00_scope.md R9: the model's `rotl` is the library's left rotation,
and where it moves each bit. -/

namespace Sys2Proof.Machine

/-- Ties the spec's `rotl` to the library, whose rotation lemmas then apply to it. -/
theorem rotl_eq_rotateLeft (x : Word) {n : Nat} (hn : n < 32) : rotl x n = x.rotateLeft n := by
  rw [BitVec.rotateLeft_def, Nat.mod_eq_of_lt hn, rotl]

/-- The two cases are the two operands of the OR in `rotl`: a bit that stays inside the word comes from the left shift,
a bit that wraps around from the right shift. -/
theorem getLsbD_rotl (x : Word) {n i : Nat} (hn : n < 32) (hi : i < 32) :
    (rotl x n).getLsbD ((i + n) % 32) = x.getLsbD i := by
  rw [rotl_eq_rotateLeft x hn, BitVec.getLsbD_rotateLeft, Nat.mod_eq_of_lt hn]
  by_cases hin : i + n < 32
  · rw [Nat.mod_eq_of_lt hin]
    simp [hin]
  · have hwrap : (i + n) % 32 = i + n - 32 := by omega
    have hlow : i + n - 32 < n := by omega
    have hsource : 32 - n + (i + n - 32) = i := by omega
    rw [hwrap]
    simp [hlow, hsource]

/-- Settles O33: the sum and the complement are the library's facts of `BitVec 32`, the rotation is `getLsbD_rotl`. -/
theorem wordArithmetic : Obligations.WordArithmetic := by
  unfold Obligations.WordArithmetic
  exact ⟨BitVec.toNat_add, fun _ => BitVec.xor_allOnes.symm, fun x _ _ _ hn hi => getLsbD_rotl x hn hi⟩

end Sys2Proof.Machine

/-! PROOFS. The flags ERR and READY of spec/10_state.md R25: which step sets and which clears each, read off the PHASE
that the step leaves, and where a response shows it. -/

namespace Sys2Proof.Machine

/-! ### The word of a decoded command -/

/-- A word whose OP and ARG bytes are an instruction's is the word of that instruction. -/
theorem encode_eq_of_fields {w : PortWord} {i : Instr} (hop : opField w = opOf i) (harg : argField w = argOf i) :
    encode i = w := by
  rw [encode, ← hop, ← harg, opField, argField]
  exact (BitVec.extractLsb'_append_extractLsb'_eq_extractLsb' (start₂ := 8) rfl).trans BitVec.extractLsb'_eq_self

/-- Only a zero ARG gives a command without operand (R75). -/
theorem decodeNoArg_eq_instr {i j : Instr} {op arg : BitVec 8} (h : decodeNoArg i op arg = .instr j) :
    j = i ∧ arg = 0 := by
  unfold decodeNoArg at h
  split_ifs at h with harg
  cases h
  exact ⟨rfl, harg⟩

/-- What the OP byte and the ARG byte of a decoded word are (R72). -/
theorem fields_of_decode {w : PortWord} {i : Instr} (h : decode w = .instr i) :
    opField w = opOf i ∧ argField w = argOf i := by
  unfold decode at h
  dsimp only at h
  split_ifs at h with hStatus hInit hAbsorb hFinal hRead
  · obtain ⟨rfl, harg⟩ := decodeNoArg_eq_instr h
    exact ⟨hStatus, harg⟩
  · obtain ⟨rfl, harg⟩ := decodeNoArg_eq_instr h
    exact ⟨hInit, harg⟩
  · cases h
    exact ⟨hAbsorb, rfl⟩
  · obtain ⟨rfl, harg⟩ := decodeNoArg_eq_instr h
    exact ⟨hFinal, harg⟩
  · cases h
    exact ⟨hRead, by simp [argOf]⟩

/-- A word that decodes to an instruction is the instruction's own word. -/
theorem encode_of_decode {w : PortWord} {i : Instr} (h : decode w = .instr i) : encode i = w := by
  obtain ⟨hop, harg⟩ := fields_of_decode h
  exact encode_eq_of_fields hop harg

theorem decode_eq_init_iff (w : PortWord) : decode w = .instr .init ↔ w = 0x0100 :=
  ⟨fun h => (encode_of_decode h).symm, by rintro rfl; decide⟩

theorem decode_eq_final_iff (w : PortWord) : decode w = .instr .final ↔ w = 0x0300 :=
  ⟨fun h => (encode_of_decode h).symm, by rintro rfl; decide⟩

/-! ### The step of a given host action -/

section StepOfAction
variable {s : State} {rest : List HostAction}

theorem step_of_reset (hhost : s.host = .reset :: rest) : step s = .next (resetEngine { s with host := rest }) := by
  rw [step, takeAction_cons hhost]

theorem step_of_instr {w : PortWord} {i : Instr} (hhost : s.host = .command w :: rest) (hdec : decode w = .instr i) :
    step s = exec i { s with host := rest } := by
  rw [step, takeAction_cons hhost]
  simp only [hdec]

theorem step_of_init (hhost : s.host = .command 0x0100 :: rest) :
    step s = .next (respond false 0x00 (startComputation { s with host := rest })) :=
  (step_of_instr hhost ((decode_eq_init_iff _).2 rfl)).trans (exec_of_accepted (firstFailure_init _))

end StepOfAction

/-! ### PHASE after a command -/

/-- The effects of ABSORB, STATUS and READ keep PHASE; INIT opens a computation and FINAL ends it. -/
theorem effectOf_phase (i : Instr) (s : State) : (effectOf i s).phase =
    match i with
    | .init => .absorbing
    | .final => .done
    | _ => s.phase := by
  cases i <;> rfl

@[simp] theorem effectOf_rsps (i : Instr) (s : State) : (effectOf i s).rsps = s.rsps := by
  cases i <;> rfl

/-- A command that leaves FAILED is INIT: STATUS writes no PHASE and the other three are rejected there (R178, R179). -/
theorem eq_init_of_exec_leaves_failed {i : Instr} {s t : State} (h : exec i s = .next t)
    (hs : s.phase = .failed) (ht : t.phase ≠ .failed) : i = .init := by
  rcases exec_cases h with ⟨c, -, rfl⟩ | ⟨hacc, rfl⟩
  · exact absurd (reject_phase c s) ht
  · rw [respond_phase, effectOf_phase] at ht
    cases i with
    | init => rfl
    | final => simp [firstFailure_final, hs] at hacc
    | status | absorb | read => exact absurd hs ht

/-- The command that enters DONE is FINAL, accepted in phase ABSORBING (R155). -/
theorem exec_enters_done_iff {i : Instr} {s t : State} (h : exec i s = .next t) (hs : s.phase ≠ .done) :
    t.phase = .done ↔ s.phase = .absorbing ∧ i = .final := by
  rcases exec_cases h with ⟨c, hrej, rfl⟩ | ⟨hacc, rfl⟩
  · refine iff_of_false (by simp) ?_
    rintro ⟨hp, rfl⟩
    simp [firstFailure_final, hp] at hrej
  · rw [respond_phase, effectOf_phase]
    cases i with
    | init => simp
    | final => simpa [firstFailure_final] using hacc
    | status | absorb | read => simp [hs]

/-! ### PHASE after a step -/

/-- A step that leaves FAILED performs INIT or reset (R178). -/
theorem step_leaves_failed {s t : State} (h : step s = .next t) (hs : s.phase = .failed) (ht : t.phase ≠ .failed) :
    ∃ rest, s.host = .command 0x0100 :: rest ∨ s.host = .reset :: rest := by
  rcases step_cases h with ⟨-, rfl⟩ | ⟨rest, hhost, -⟩ | ⟨w, rest, i, hhost, hdec, hexec⟩ | ⟨w, rest, why, -, -, rfl⟩
  · exact absurd hs ht
  · exact ⟨rest, .inr hhost⟩
  · obtain rfl := eq_init_of_exec_leaves_failed hexec hs ht
    obtain rfl := (decode_eq_init_iff w).1 hdec
    exact ⟨rest, .inl hhost⟩
  · exact absurd (reject_phase ..) ht

/-- A step that enters DONE performs FINAL in phase ABSORBING, and such a step does enter it (R155). -/
theorem step_enters_done_iff {s t : State} (h : step s = .next t) (hs : s.phase ≠ .done) :
    t.phase = .done ↔ s.phase = .absorbing ∧ ∃ rest, s.host = .command 0x0300 :: rest := by
  rcases step_cases h with ⟨hhost, rfl⟩ | ⟨rest, hhost, rfl⟩ | ⟨w, rest, i, hhost, hdec, hexec⟩ |
    ⟨w, rest, why, hhost, hdec, rfl⟩
  · simp [hs, hhost]
  · simp [hhost]
  · have hword : i = .final ↔ w = 0x0300 := by
      rw [← decode_eq_final_iff, hdec, Cmd.instr.injEq]
    simp [exec_enters_done_iff hexec hs, hword, hhost]
  · refine iff_of_false (by simp) ?_
    rintro ⟨-, _, hfinal⟩
    cases hhost.symm.trans hfinal
    cases hdec.symm.trans ((decode_eq_final_iff _).2 rfl)

/-- INIT leaves ABSORBING and reset leaves IDLE (R153, R190). -/
theorem step_of_restart_phase {s t : State} {rest : List HostAction} (h : step s = .next t)
    (hhost : s.host = .command 0x0100 :: rest ∨ s.host = .reset :: rest) :
    t.phase = .absorbing ∨ t.phase = .idle := by
  rcases hhost with hinit | hreset
  · rw [step_of_init hinit] at h
    cases h
    exact .inl rfl
  · rw [step_of_reset hreset] at h
    cases h
    exact .inr rfl

/-! ### The response of a command -/

theorem responseWord_phaseField (rej : Bool) (c : Cause) (p : Phase) (data : Byte) :
    (responseWord rej c p data).extractLsb' 10 2 = phaseCode p := by
  rw [responseWord, BitVec.extractLsb'_append_eq_of_le (by decide), BitVec.extractLsb'_append_eq_of_le (by decide)]
  exact BitVec.extractLsb'_append_eq_right

theorem phaseCode_injective : Function.Injective phaseCode := by
  intro p q
  cases p <;> cases q <;> decide

/-- The one response of a command shows CAUSE and PHASE as they are after it (R161). -/
theorem exec_rsps {i : Instr} {s t : State} (h : exec i s = .next t) :
    ∃ rej data, t.rsps = s.rsps ++ [responseWord rej t.cause t.phase data] := by
  rcases exec_cases h with ⟨c, -, rfl⟩ | ⟨-, rfl⟩
  · exact ⟨true, 0x00, by rw [reject_rsps, reject_phase]⟩
  · exact ⟨false, dataOf i s, by simp⟩

theorem step_of_command_rsps {s t : State} {w : PortWord} {rest : List HostAction} (h : step s = .next t)
    (hhost : s.host = .command w :: rest) :
    ∃ rej data, t.rsps = s.rsps ++ [responseWord rej t.cause t.phase data] := by
  rcases step_cases h with ⟨hnil, -⟩ | ⟨_, hreset, -⟩ | ⟨_, _, i, -, -, hexec⟩ | ⟨_, rest', why, -, -, rfl⟩
  · simp [hnil] at hhost
  · simp [hreset] at hhost
  · exact (exec_rsps hexec :)
  · exact ⟨true, 0x00, by rw [reject_rsps, reject_phase]⟩

/-! ### The flags -/

@[simp] theorem errFlag_eq_true (s : State) : errFlag s = true ↔ s.phase = .failed := by simp [errFlag]
@[simp] theorem errFlag_eq_false (s : State) : errFlag s = false ↔ s.phase ≠ .failed := by simp [errFlag]
@[simp] theorem readyFlag_eq_true (s : State) : readyFlag s = true ↔ s.phase = .done := by simp [readyFlag]
@[simp] theorem readyFlag_eq_false (s : State) : readyFlag s = false ↔ s.phase ≠ .done := by simp [readyFlag]

/-- Both flags can be read from the PHASE field of the response to a command (R25, R71). -/
theorem flags_in_response {s t : State} {w : PortWord} {rest : List HostAction} (h : step s = .next t)
    (hhost : s.host = .command w :: rest) : ∃ r, t.rsps = s.rsps ++ [r] ∧
      (errFlag t = true ↔ r.extractLsb' 10 2 = 3#2) ∧ (readyFlag t = true ↔ r.extractLsb' 10 2 = 2#2) := by
  obtain ⟨rej, data, hrsps⟩ := step_of_command_rsps h hhost
  refine ⟨_, hrsps, ?_, ?_⟩
  · rw [responseWord_phaseField, errFlag_eq_true]
    exact (phaseCode_injective.eq_iff (b := .failed)).symm
  · rw [responseWord_phaseField, readyFlag_eq_true]
    exact (phaseCode_injective.eq_iff (b := .done)).symm

/-- Settles O22: each flag is a value of PHASE, so each clause is what a step, a rejection or reset does to PHASE. -/
theorem errAndReadyFlags : Obligations.ErrAndReadyFlags := by
  unfold Obligations.ErrAndReadyFlags
  refine ⟨fun s => ⟨errFlag_eq_true s, readyFlag_eq_true s⟩, fun c s => by simp, fun s t h => ⟨?_, ?_, ?_, ?_⟩, rfl, rfl⟩
  · rw [errFlag_eq_true, errFlag_eq_false]
    exact step_leaves_failed h
  · rw [readyFlag_eq_false, readyFlag_eq_true]
    exact step_enters_done_iff h
  · rintro ⟨rest, hhost⟩
    rcases step_of_restart_phase h hhost with hp | hp <;> simp [hp]
  · intro w rest hhost
    exact flags_in_response h hhost

end Sys2Proof.Machine

/-! PROOFS. The command word (spec/30_encoding.md R70 to R76): the table's masks and the reserved words, each read off
the two fields OP and ARG of a word. -/

namespace Sys2Proof.Machine

/-! ### The two fields -/

theorem opField_append_argField (w : PortWord) : opField w ++ argField w = w :=
  (BitVec.extractLsb'_append_extractLsb'_eq_extractLsb' (start₂ := 8) rfl).trans BitVec.extractLsb'_eq_self

theorem opField_append (op arg : BitVec 8) : opField (op ++ arg) = op :=
  BitVec.extractLsb'_append_eq_left

theorem argField_toNat (w : PortWord) : (argField w).toNat = w.toNat % 256 := by
  simp [argField]

theorem opField_toNat (w : PortWord) : (opField w).toNat = w.toNat / 256 := by
  have hlt : w.toNat / 256 < 256 := by omega
  rw [opField, BitVec.extractLsb'_toNat, Nat.shiftRight_eq_div_pow]
  exact Nat.mod_eq_of_lt hlt

/-- The mask 0xFF00 of ABSORB and READ (R72) compares the OP byte alone. -/
theorem masked_eq_iff_opField (w : PortWord) (op : BitVec 8) : w &&& 0xFF00 = op ++ 0x00#8 ↔ opField w = op := by
  have hmask : w &&& 0xFF00 = opField w ++ 0x00#8 := by
    simpa only [opField_append_argField] using Laws.EncodeMatchesTable.masked (opField w) (argField w)
  rw [hmask]
  exact ⟨fun h => by simpa only [opField_append] using congrArg opField h, fun h => by rw [h]⟩

/-! ### Which words spell a command -/

theorem decode_eq_status_iff (w : PortWord) : decode w = .instr .status ↔ w = 0x0000 :=
  ⟨fun h => (encode_of_decode h).symm, by rintro rfl; decide⟩

theorem decode_of_absorb_op {w : PortWord} (hop : opField w = 0x02) : decode w = .instr (.absorb (argField w)) := by
  simp [decode, hop]

theorem decode_of_read_op {w : PortWord} (hop : opField w = 0x04) : decode w = .instr (.read (argField w).toNat) := by
  simp [decode, hop]

theorem decode_eq_absorb_iff (w : PortWord) (b : Byte) :
    decode w = .instr (.absorb b) ↔ opField w = 0x02 ∧ b = argField w := by
  constructor
  · intro h
    obtain ⟨hop, harg⟩ := fields_of_decode h
    exact ⟨hop, harg.symm⟩
  · rintro ⟨hop, rfl⟩
    exact decode_of_absorb_op hop

/-- The index is the whole ARG byte (R73). -/
theorem decode_eq_read_iff (w : PortWord) (i : Nat) :
    decode w = .instr (.read i) ↔ opField w = 0x04 ∧ i = (argField w).toNat := by
  constructor
  · intro h
    obtain ⟨hop, -⟩ := fields_of_decode h
    cases h.symm.trans (decode_of_read_op hop)
    exact ⟨hop, rfl⟩
  · rintro ⟨hop, rfl⟩
    exact decode_of_read_op hop

/-- Settles O2: the full mask compares the whole word, the mask 0xFF00 the OP byte, and the operand is the ARG byte. -/
theorem decodeFollowsMatchAndMask : Obligations.DecodeFollowsMatchAndMask := by
  unfold Obligations.DecodeFollowsMatchAndMask
  intro w
  have hfull : w &&& 0xFFFF = w := BitVec.and_allOnes
  rw [hfull]
  refine ⟨decode_eq_status_iff w, decode_eq_init_iff w, fun b => ?_, decode_eq_final_iff w, fun i => ?_⟩
  · rw [decode_eq_absorb_iff, ← masked_eq_iff_opField, ← argField_toNat, BitVec.toNat_inj]
    rfl
  · rw [decode_eq_read_iff, ← masked_eq_iff_opField, argField_toNat]
    rfl

/-! ### The reserved words -/

theorem decodeNoArg_illegal_iff (i : Instr) (op arg : BitVec 8) :
    (∃ why, decodeNoArg i op arg = .illegal why) ↔ arg ≠ 0 := by
  unfold decodeNoArg
  split_ifs with harg
  · simp [harg]
  · simpa using harg

/-- The reserved words by their fields (R75), one case per OP of the decoder. -/
theorem decode_illegal_iff_fields (w : PortWord) : (∃ why, decode w = .illegal why) ↔
    5 ≤ (opField w).toNat ∨ (opField w = 0x00 ∨ opField w = 0x01 ∨ opField w = 0x03) ∧ argField w ≠ 0 := by
  unfold decode
  dsimp only
  split_ifs with hStatus hInit hAbsorb hFinal hRead
  · simp [decodeNoArg_illegal_iff, hStatus]
  · simp [decodeNoArg_illegal_iff, hInit]
  · simp [hAbsorb]
  · simp [decodeNoArg_illegal_iff, hFinal]
  · simp [hRead]
  · have hop : 5 ≤ (opField w).toNat := by bv_omega
    simp [hop]

theorem decode_illegal_iff (w : PortWord) : (∃ why, decode w = .illegal why) ↔
    5 ≤ w.toNat / 256 ∨ (w.toNat / 256 = 0 ∨ w.toNat / 256 = 1 ∨ w.toNat / 256 = 3) ∧ w.toNat % 256 ≠ 0 := by
  simp [decode_illegal_iff_fields, ← BitVec.toNat_inj, opField_toNat, argField_toNat]

/-- A word is its two bytes, so words are counted byte by byte. -/
theorem card_words_of_bytes {ops args : Finset Nat} (hops : ∀ a ∈ ops, a < 256) (hargs : ∀ b ∈ args, b < 256) :
    (Finset.univ.filter fun w : PortWord => w.toNat / 256 ∈ ops ∧ w.toNat % 256 ∈ args).card =
      ops.card * args.card := by
  have hbytes : ∀ p ∈ ops ×ˢ args, (BitVec.ofNat 16 (256 * p.1 + p.2)).toNat / 256 = p.1 ∧
      (BitVec.ofNat 16 (256 * p.1 + p.2)).toNat % 256 = p.2 := by
    intro p hp
    obtain ⟨hop, harg⟩ := Finset.mem_product.1 hp
    have hop_lt := hops _ hop
    have harg_lt := hargs _ harg
    rw [BitVec.toNat_ofNat]
    omega
  rw [← Finset.card_product]
  refine Finset.card_nbij' (fun w => (w.toNat / 256, w.toNat % 256)) (fun p => BitVec.ofNat 16 (256 * p.1 + p.2))
    (fun w hw => by simpa using hw) (fun p hp => ?_) (fun w _ => ?_) (fun p hp => ?_)
  · obtain ⟨hdiv, hmod⟩ := hbytes p hp
    rw [Finset.mem_coe, Finset.mem_filter, hdiv, hmod]
    exact ⟨Finset.mem_univ _, Finset.mem_product.1 hp⟩
  · simp [Nat.div_add_mod]
  · obtain ⟨hdiv, hmod⟩ := hbytes p hp
    exact Prod.ext hdiv hmod

theorem card_words_of_unassigned_op :
    (Finset.univ.filter fun w : PortWord => 5 ≤ w.toNat / 256).card = 64256 := by
  have hbytes : ∀ w : PortWord, 5 ≤ w.toNat / 256 ↔
      w.toNat / 256 ∈ Finset.Ico 5 256 ∧ w.toNat % 256 ∈ Finset.range 256 := by
    intro w
    simp only [Finset.mem_Ico, Finset.mem_range]
    omega
  simp only [hbytes]
  rw [card_words_of_bytes (by simp) (by simp)]
  simp

theorem card_words_of_arg_not_zero : (Finset.univ.filter fun w : PortWord =>
    (w.toNat / 256 = 0 ∨ w.toNat / 256 = 1 ∨ w.toNat / 256 = 3) ∧ w.toNat % 256 ≠ 0).card = 765 := by
  have hbytes : ∀ w : PortWord,
      (w.toNat / 256 = 0 ∨ w.toNat / 256 = 1 ∨ w.toNat / 256 = 3) ∧ w.toNat % 256 ≠ 0 ↔
      w.toNat / 256 ∈ ({0, 1, 3} : Finset Nat) ∧ w.toNat % 256 ∈ Finset.Ico 1 256 := by
    intro w
    simp only [Finset.mem_Ico, Finset.mem_insert, Finset.mem_singleton]
    omega
  simp only [hbytes]
  rw [card_words_of_bytes (by simp) (by simp)]
  simp

theorem step_of_illegal {s : State} {w : PortWord} {rest : List HostAction} {why : Reserved}
    (hhost : s.host = .command w :: rest) (hdec : decode w = .illegal why) :
    step s = .next (reject .illegalCmd { s with host := rest }) := by
  rw [step, takeAction_cons hhost]
  simp only [hdec, execIllegal]

/-- Settles O3: the decoder answers ILLEGAL by the two fields, its step is the one rejection, and the two classes are
counted byte by byte. -/
theorem reservedWordsAreRejected : Obligations.ReservedWordsAreRejected := by
  unfold Obligations.ReservedWordsAreRejected
  refine ⟨decode_illegal_iff, fun s w rest why hhost hdec => ?_,
    card_words_of_unassigned_op, card_words_of_arg_not_zero⟩
  rw [step_of_illegal hhost hdec, reject_eq]

end Sys2Proof.Machine

/-! PROOFS. The response word (spec/30_encoding.md R71): its fields, and the one response that a command appends. -/

namespace Sys2Proof.Machine

/-! ### The fields of a response word (PHASE: `responseWord_phaseField`) -/

section ResponseFields
variable (rej : Bool) (c : Cause) (p : Phase) (data : Byte)

theorem responseWord_rejBit : (responseWord rej c p data).getLsbD 15 = rej := by
  rw [responseWord, BitVec.getLsbD_append, BitVec.getLsbD_append, BitVec.getLsbD_append, BitVec.getLsbD_append]
  cases rej <;> rfl

theorem responseWord_causeField : (responseWord rej c p data).extractLsb' 12 3 = causeCode c := by
  rw [responseWord, BitVec.extractLsb'_append_eq_of_le (by decide), BitVec.extractLsb'_append_eq_of_le (by decide),
    BitVec.extractLsb'_append_eq_of_le (by decide)]
  exact BitVec.extractLsb'_append_eq_right

theorem responseWord_zeroField : (responseWord rej c p data).extractLsb' 8 2 = 0#2 := by
  rw [responseWord, BitVec.extractLsb'_append_eq_of_le (by decide)]
  exact BitVec.extractLsb'_append_eq_right

theorem responseWord_dataField : (responseWord rej c p data).extractLsb' 0 8 = data :=
  BitVec.extractLsb'_append_eq_right

end ResponseFields

/-! ### What a command does -/

@[simp] theorem effectOf_host (i : Instr) (s : State) : (effectOf i s).host = s.host := by
  cases i <;> rfl

theorem respond_effectOf_rsps (rej : Bool) (data : Byte) (i : Instr) (s : State) :
    (respond rej data (effectOf i s)).rsps =
      s.rsps ++ [responseWord rej (effectOf i s).cause (effectOf i s).phase data] := by
  rw [respond_rsps, effectOf_rsps]

/-- A command is rejected, or it spells an instruction that no check rejects and has its effect (R151). -/
theorem step_of_command_cases {s : State} {w : PortWord} {rest : List HostAction}
    (hhost : s.host = .command w :: rest) :
    (∃ c, c ≠ .none ∧ step s = .next (reject c { s with host := rest })) ∨
    ∃ i, decode w = .instr i ∧ firstFailure i { s with host := rest } = none ∧
      step s = .next (respond false (dataOf i { s with host := rest }) (effectOf i { s with host := rest })) := by
  cases hdec : decode w with
  | illegal why => exact .inl ⟨.illegalCmd, by decide, step_of_illegal hhost hdec⟩
  | instr i =>
    rw [step_of_instr hhost hdec]
    cases hfail : firstFailure i { s with host := rest } with
    | some c => exact .inl ⟨c, firstFailure_ne_none hfail, exec_of_rejected hfail⟩
    | none => exact .inr ⟨i, rfl, hfail, exec_of_accepted hfail⟩

/-- An accepting response is never the response of a rejection: the two differ in REJ. -/
theorem accepted_ne_rejectedWith (i : Instr) (data : Byte) (c : Cause) (s : State) :
    respond false data (effectOf i s) ≠ rejectedWith c s := by
  rw [← reject_eq]
  intro h
  have hrsps := congrArg State.rsps h
  rw [reject_rsps, respond_effectOf_rsps, List.append_cancel_left_eq, List.singleton_inj] at hrsps
  simpa only [responseWord_rejBit, Bool.false_eq_true] using congrArg (·.getLsbD 15) hrsps

/-- DATA of an accepted command: the digest byte of a READ, which is accepted in DONE with an index below 20 only, and
0x00 of the other commands. -/
theorem dataOf_of_accepted {i : Instr} {s : State} (hacc : firstFailure i s = none) :
    (∀ k, i ≠ .read k) ∧ dataOf i s = 0x00 ∨
    ∃ k, ∃ h : k < 20, i = .read k ∧ s.phase = .done ∧ dataOf i s = s.digest[k] := by
  cases i with
  | read k =>
    rw [firstFailure_read] at hacc
    split_ifs at hacc with hphase hindex
    have hk : k < 20 := by omega
    exact .inr ⟨k, hk, rfl, by simpa using hphase, by simp [dataOf, digestByte, hk]⟩
  | status | init | absorb | final => exact .inl ⟨by simp, rfl⟩

/-- Settles O9: the response of a rejection and the response of an acceptance, each by the fields of its word. -/
theorem oneResponsePerCommand : Obligations.OneResponsePerCommand := by
  unfold Obligations.OneResponsePerCommand
  intro s w rest hhost
  rcases step_of_command_cases hhost with ⟨c, hc, hstep⟩ | ⟨i, hdec, hacc, hstep⟩
  · refine ⟨_, _, hstep, reject_host .., reject_rsps .., responseWord_causeField .., ?_, responseWord_zeroField ..,
      ?_, fun _ => responseWord_dataField .., ?_⟩
    · rw [responseWord_phaseField, reject_phase]
    · exact iff_of_true (responseWord_rejBit ..) ⟨c, hc, reject_eq ..⟩
    · rw [responseWord_rejBit]
      exact nofun
  · refine ⟨_, _, hstep, by simp, respond_effectOf_rsps .., responseWord_causeField ..,
      responseWord_phaseField .., responseWord_zeroField .., ?_, ?_, fun _ => ?_⟩
    · refine iff_of_false (by rw [responseWord_rejBit]; decide) ?_
      rintro ⟨c, -, heq⟩
      exact accepted_ne_rejectedWith _ _ _ _ heq
    · rw [responseWord_rejBit]
      exact nofun
    · rw [responseWord_dataField, hdec]
      simpa using dataOf_of_accepted hacc

end Sys2Proof.Machine

/-! PROOFS. The padding of spec/40_padding.md R90 to R93: the number of zero bytes, and the layout of a padded message. -/

namespace Sys2Proof.Machine

/-! ### The number of zero bytes -/

theorem zpad_of_le {n : Nat} (h : n % 64 ≤ 55) : zpad n = 55 - n % 64 := by
  have hwrap : 119 - n % 64 = 55 - n % 64 + 64 := by omega
  rw [zpad, hwrap, Nat.add_mod_right]
  exact Nat.mod_eq_of_lt (by omega)

theorem zpad_of_ge {n : Nat} (h : 56 ≤ n % 64) : zpad n = 119 - n % 64 :=
  Nat.mod_eq_of_lt (by omega)

/-- R90's two closed forms cover every length: the length field goes into the block of the marker, or into the next. -/
theorem zpad_cases (n : Nat) :
    n % 64 ≤ 55 ∧ zpad n = 55 - n % 64 ∨ 56 ≤ n % 64 ∧ zpad n = 119 - n % 64 := by
  rcases Nat.lt_or_ge 55 (n % 64) with h | h
  · exact .inr ⟨h, zpad_of_ge h⟩
  · exact .inl ⟨h, zpad_of_le h⟩

theorem zpad_mod (n : Nat) : zpad n = zpad (n % 64) := by
  rw [zpad, zpad, Nat.mod_mod]

/-- The message, the marker and the zeros leave 8 bytes of the last block free. -/
theorem zpad_leaves_eight (n : Nat) : (n + 1 + zpad n) % 64 = 56 := by
  rcases zpad_cases n with ⟨h, hz⟩ | ⟨h, hz⟩ <;> omega

/-- A number of zeros that works differs from `zpad n` by a multiple of 64, and `zpad n` is the one below 64. -/
theorem zpad_le_of_leaves_eight {n z : Nat} (h : (n + 1 + z) % 64 = 56) : zpad n ≤ z := by
  have hcongr : zpad n ≡ z [MOD 64] := Nat.ModEq.add_left_cancel' (n + 1) ((zpad_leaves_eight n).trans h.symm)
  calc zpad n = zpad n % 64 := (Nat.mod_eq_of_lt (zpad_lt n)).symm
    _ = z % 64 := hcongr
    _ ≤ z := Nat.mod_le z 64

theorem zpad_eq_zero_iff (n : Nat) : zpad n = 0 ↔ n % 64 = 55 := by
  rcases zpad_cases n with ⟨h, hz⟩ | ⟨h, hz⟩ <;> omega

theorem zpad_eq_63_iff (n : Nat) : zpad n = 63 ↔ n % 64 = 56 := by
  rcases zpad_cases n with ⟨h, hz⟩ | ⟨h, hz⟩ <;> omega

/-- Settles O36: the two closed forms give the residue, and below 64 the residue has one solution. -/
theorem zpadIsLeast : Obligations.ZpadIsLeast := by
  unfold Obligations.ZpadIsLeast
  exact fun n => ⟨zpad_leaves_eight n, fun _ => zpad_le_of_leaves_eight, zpad_of_le, zpad_of_ge, zpad_mod n,
    zpad_eq_zero_iff n, Nat.le_of_lt_succ (zpad_lt n), zpad_eq_63_iff n⟩

/-! ### The layout of a padded message -/

/-- R10: the eight bytes of `be64`, the first the most significant, spell the number. -/
theorem be64_value (l : U64) :
    (be64 l)[0].toNat * 2 ^ 56 + (be64 l)[1].toNat * 2 ^ 48 + (be64 l)[2].toNat * 2 ^ 40 +
      (be64 l)[3].toNat * 2 ^ 32 + (be64 l)[4].toNat * 2 ^ 24 + (be64 l)[5].toNat * 2 ^ 16 +
      (be64 l)[6].toNat * 2 ^ 8 + (be64 l)[7].toNat = l.toNat := by
  have hlt : l.toNat < 2 ^ 64 := l.isLt
  simp only [be64, Vector.getElem_mk, List.getElem_toArray, List.getElem_cons_zero, List.getElem_cons_succ,
    BitVec.extractLsb'_toNat, Nat.shiftRight_eq_div_pow]
  omega

/-- R91 with the parts in their order, the message in front. -/
theorem pad_eq (m : Message) : pad m =
    m.bytes ++ padMarker :: (zeros (zpad m.bytes.length) ++ (be64 (bitLength m.len)).toList) := by
  simp [pad, padding]

theorem pad_take (m : Message) : (pad m).take m.bytes.length = m.bytes :=
  List.take_left

theorem pad_marker (m : Message) : (pad m)[m.bytes.length]? = some padMarker := by
  rw [pad_eq, List.getElem?_append_right le_rfl, Nat.sub_self, List.getElem?_cons_zero]

/-- Everything behind the marker. -/
theorem pad_drop_marker (m : Message) : (pad m).drop (m.bytes.length + 1) =
    zeros (zpad m.bytes.length) ++ (be64 (bitLength m.len)).toList := by
  rw [pad_eq, List.drop_length_add_append, List.drop_one, List.tail_cons]

theorem pad_zero (m : Message) {j : Nat} (hj : j < zpad m.bytes.length) :
    (pad m)[m.bytes.length + 1 + j]? = some 0x00 := by
  rw [← List.getElem?_drop, pad_drop_marker, List.getElem?_append_left (by rwa [zeros_length]), zeros,
    List.getElem?_replicate_of_lt hj]

theorem pad_drop_zeros (m : Message) : (pad m).drop (m.bytes.length + 1 + zpad m.bytes.length) =
    (be64 (bitLength m.len)).toList := by
  rw [← List.drop_drop, pad_drop_marker]
  exact List.drop_left' (zeros_length _)

/-- Settles O37: each part is read off `pad_eq`, and the length field spells `|m| × 8`, which does not overflow. -/
theorem padLayout : Obligations.PadLayout := by
  unfold Obligations.PadLayout
  refine fun m => ⟨pad_take m, pad_marker m, fun k hk hlt => ?_, _, pad_drop_zeros m, ?_⟩
  · obtain ⟨j, rfl⟩ := Nat.exists_eq_add_of_le hk
    exact pad_zero m (by omega)
  · rw [be64_value, bitLength_toNat, Message.len_toNat]

end Sys2Proof.Machine

/-! PROOFS. Block splitting and the first sixteen words of the schedule (spec/41_block_schedule.md R100 and R101). -/

namespace Sys2Proof.Machine

/-! ### Blocks -/

theorem blocks_getElem (P : List Byte) {i : Nat} (hi : i < (blocks P).length) :
    (blocks P)[i] = blockAt P (64 * i) := by
  simp [blocks]

/-- Every byte of a block that `blocks` cuts lies inside P, so the value `blockAt` has beyond the end is never used. -/
theorem blocks_getElem_getElem (P : List Byte) {i k : Nat} (hi : i < (blocks P).length) (hk : k < 64) :
    some (blocks P)[i][k] = P[64 * i + k]? := by
  have hinside : 64 * i + k < P.length := by
    rw [blocks_length] at hi
    omega
  rw [blocks_getElem P hi, blockAt_getElem P _ k hk, List.getD_eq_getElem P 0 hinside,
    List.getElem?_eq_getElem hinside]

/-- Settles O41: block i is cut at offset 64i, and all its 64 bytes lie inside P. -/
theorem blocksInOrder : Obligations.BlocksInOrder := by
  unfold Obligations.BlocksInOrder
  exact fun P _ => ⟨blocks_length P, fun _ hi _ hk => blocks_getElem_getElem P hi hk⟩

/-! ### The first sixteen words -/

/-- A byte appended below a bit vector is its last digit to the base 256. -/
theorem append_byte_toNat {n : Nat} (x : BitVec n) (b : Byte) : (x ++ b).toNat = x.toNat * 2 ^ 8 + b.toNat := by
  rw [BitVec.toNat_append, ← Nat.shiftLeft_add_eq_or_of_lt b.isLt, Nat.shiftLeft_eq]

/-- R10: the four bytes of `wordBe`, the first the most significant, spell the number. -/
theorem wordBe_toNat (b0 b1 b2 b3 : Byte) :
    (wordBe b0 b1 b2 b3).toNat = b0.toNat * 2 ^ 24 + b1.toNat * 2 ^ 16 + b2.toNat * 2 ^ 8 + b3.toNat := by
  rw [wordBe, append_byte_toNat, append_byte_toNat, append_byte_toNat]
  ring

/-- The expansion only appends, so however far it has run the first sixteen words are those of the block. -/
theorem expand_getElem_of_lt (B : Block) (n : Nat) {j : Nat} (hj : j < 16) :
    (expand B n)[j] = blockWord B ⟨j, hj⟩ := by
  induction n with
  | zero => simp [expand, words]
  | succ n ih => rw [expand_succ_getElem B n j (by omega), ih]

/-- The schedule starts with the words of the block (R101, R103). -/
theorem schedule_getElem_of_lt (B : Block) {j : Nat} (hj : j < 16) :
    (schedule B)[j] = blockWord B ⟨j, hj⟩ :=
  expand_getElem_of_lt B 64 hj

/-- Settles O42: the expansion keeps the block's words, and each of them spells its four bytes. -/
theorem scheduleStartsWithBlockWords : Obligations.ScheduleStartsWithBlockWords := by
  unfold Obligations.ScheduleStartsWithBlockWords
  intro B j hj
  rw [schedule_getElem_of_lt B hj, blockWord, wordBe_toNat]

end Sys2Proof.Machine

/-! PROOFS. One round of mixing and the order of the rounds (spec/42_rounds.md R111 to R119). -/

namespace Sys2Proof.Machine

/-! ### The mixing function of a round -/

section Mix
variable {t : Fin 80} (b c d : Word)

theorem mix_eq_choice (h : t.val ≤ 19) : mix t b c d = choice b c d := by
  simp (disch := omega) only [mix, if_pos]

theorem mix_eq_parity (h : 20 ≤ t.val ∧ t.val ≤ 39 ∨ 60 ≤ t.val) : mix t b c d = parity b c d := by
  rcases h with ⟨hlow, hhigh⟩ | hlow
  · simp (disch := omega) only [mix, if_pos, if_neg]
  · simp (disch := omega) only [mix, if_neg]

theorem mix_eq_majority (hlow : 40 ≤ t.val) (hhigh : t.val ≤ 59) : mix t b c d = majority b c d := by
  simp (disch := omega) only [mix, if_pos, if_neg]

end Mix

/-- R111 per bit: the bit of b selects between those of c and d. -/
theorem getLsbD_choice (b c d : Word) {k : Nat} (hk : k < 32) :
    (choice b c d).getLsbD k = if b.getLsbD k then c.getLsbD k else d.getLsbD k := by
  rw [choice, BitVec.getLsbD_or, BitVec.getLsbD_and, BitVec.getLsbD_and, BitVec.getLsbD_not]
  cases b.getLsbD k <;> simp [hk]

/-- The formula of R113 on one bit of each operand, as a count. -/
theorem majority_bool_iff (x y z : Bool) :
    (x && y || x && z || y && z) = true ↔ 2 ≤ x.toNat + y.toNat + z.toNat := by
  revert x y z
  decide

/-- R113 per bit: a bit is set where at least two operands have it set. -/
theorem getLsbD_majority_iff (b c d : Word) (k : Nat) :
    (majority b c d).getLsbD k = true ↔
      2 ≤ (b.getLsbD k).toNat + (c.getLsbD k).toNat + (d.getLsbD k).toNat := by
  simp only [majority, BitVec.getLsbD_or, BitVec.getLsbD_and, majority_bool_iff]

/-- Settles O46: the range of t names the function, and choice and majority have their readings per bit. -/
theorem mixingFunctions : Obligations.MixingFunctions := by
  unfold Obligations.MixingFunctions
  refine fun t b c d => ⟨fun h => ?_, fun hlow hhigh => mix_eq_parity b c d (.inl ⟨hlow, hhigh⟩),
    fun hlow hhigh => ?_, fun h => mix_eq_parity b c d (.inr h)⟩
  · rw [mix_eq_choice b c d h]
    exact ⟨rfl, fun _ => getLsbD_choice b c d⟩
  · rw [mix_eq_majority b c d hlow hhigh]
    exact ⟨rfl, fun k _ => getLsbD_majority_iff b c d k⟩

/-! ### The constant of a round -/

/-- Settles O48: in each range the comparisons of `roundConstant` with 20, 40 and 60 are decided. -/
theorem roundConstants : Obligations.RoundConstants := by
  unfold Obligations.RoundConstants
  refine fun t => ⟨fun h => ?_, fun hlow hhigh => ?_, fun hlow hhigh => ?_, fun h => ?_⟩
  · simp (disch := omega) only [roundConstant, if_pos]
  · simp (disch := omega) only [roundConstant, if_pos, if_neg]
  · simp (disch := omega) only [roundConstant, if_pos, if_neg]
  · simp (disch := omega) only [roundConstant, if_neg]

/-! ### One round -/

/-- R116: each of the four additions wraps, which is one reduction of the sum of the five numbers. -/
theorem roundTemp_toNat (t : Fin 80) (s : Working) (w : Word) :
    (roundTemp t s w).toNat =
      ((rotl s.a 5).toNat + (mix t s.b s.c s.d).toNat + s.e.toNat + (roundConstant t).toNat + w.toNat) % 2 ^ 32 := by
  simp only [roundTemp, BitVec.toNat_add, Nat.mod_add_mod]

/-- Settles O49: `temp` as a number, the bits of the rotated b, and the words that only move. -/
theorem roundStep_spec : Obligations.RoundStep := by
  unfold Obligations.RoundStep
  exact fun t s w => ⟨roundTemp_toNat t s w, roundStep_b t s w,
    fun _ hk => by rw [roundStep_c, getLsbD_rotl s.b (by decide) hk], roundStep_d t s w, roundStep_e t s w⟩

/-! ### The order of the rounds -/

/-- R119 determines every state of the run: a sequence that starts at s and takes one round per step agrees with
`roundsUpTo` after each of the 80 rounds. -/
theorem roundsUpTo_eq_trace {s : Working} {W : Schedule} {trace : Nat → Working} (hstart : trace 0 = s)
    (hround : ∀ t (h : t < 80), trace (t + 1) = roundStep ⟨t, h⟩ (trace t) W[t]) (t : Nat) (ht : t ≤ 80) :
    roundsUpTo s W t ht = trace t := by
  induction t with
  | zero => rw [roundsUpTo_zero, hstart]
  | succ t ih => rw [roundsUpTo_succ, ih, hround t ht]

/-- Settles O51: the state after round 79 is the case t = 80 of `roundsUpTo_eq_trace`. -/
theorem roundsRunInOrder : Obligations.RoundsRunInOrder := by
  unfold Obligations.RoundsRunInOrder
  exact fun s W trace hstart hround => roundsUpTo_eq_trace hstart hround 80 le_rfl

end Sys2Proof.Machine

/-! PROOFS. Accumulation and the compression function (spec/43_accumulate_serialize.md R130 and R131). -/

namespace Sys2Proof.Machine

/-- The working variables start as the five words of H in order (R110). -/
theorem loadWorking_eq (H : HashState) : loadWorking H = ⟨H[0], H[1], H[2], H[3], H[4]⟩ := rfl

/-- Settles O53: each word of `compress` is its own word of `accumulate`, and an addition of words wraps. -/
theorem compressAddsRoundsToHash : Obligations.CompressAddsRoundsToHash := by
  unfold Obligations.CompressAddsRoundsToHash
  intro H B s
  have hcompress : compress H B = accumulate H s := compress_eq H B
  rw [hcompress, accumulate_0, accumulate_1, accumulate_2, accumulate_3, accumulate_4]
  exact ⟨loadWorking_eq H, BitVec.toNat_add _ _, BitVec.toNat_add _ _, BitVec.toNat_add _ _,
    BitVec.toNat_add _ _, BitVec.toNat_add _ _⟩

end Sys2Proof.Machine

/-! PROOFS. The five host commands of spec/45_commands.md R152 to R157: what each command writes and answers, read off
the model's lemma of a transaction (`exec_of_accepted`, `exec_of_rejected`). -/

namespace Sys2Proof.Machine

/-! ### The words of the commands -/

theorem argField_append (op arg : BitVec 8) : argField (op ++ arg) = arg :=
  BitVec.extractLsb'_append_eq_right

/-- STATUS, INIT and FINAL with ARG not zero are reserved, and the decoder says why (R75). -/
theorem decode_argNotZero {op arg : BitVec 8} (hop : op = 0x00 ∨ op = 0x01 ∨ op = 0x03) (harg : arg ≠ 0) :
    decode (op ++ arg) = .illegal (.argNotZero op arg) := by
  unfold decode
  rw [opField_append, argField_append]
  rcases hop with rfl | rfl | rfl <;> exact if_neg harg

/-- The operand lies in the low byte, which is zero in the row's match (R72). -/
theorem append_arg_eq_or (op arg : BitVec 8) : op ++ arg = (op ++ 0x00#8) ||| arg.zeroExtend 16 := by
  have hzero : arg.zeroExtend 16 = 0x00#8 ++ arg := BitVec.setWidth_eq_append (by decide)
  rw [hzero, BitVec.or_append, BitVec.or_zero, BitVec.zero_or]

/-! ### Rejected commands -/

theorem exec_eq_rejectedWith {i : Instr} {s : State} {c : Cause} (h : firstFailure i s = some c) :
    exec i s = .next (rejectedWith c s) := by
  rw [exec_of_rejected h, reject_eq]

/-! ### STATUS and INIT -/

theorem exec_status (s : State) : exec .status s = .next (respond false 0x00 s) :=
  exec_of_accepted (firstFailure_status s)

/-- INIT answers the same word from every state, 0x0400, for it has just written CAUSE and PHASE. -/
theorem exec_init (s : State) :
    exec .init s = .next { startComputation s with rsps := s.rsps ++ [0x0400] } := by
  have hword : responseWord false .none .absorbing 0x00 = 0x0400 := by decide
  rw [exec_of_accepted (firstFailure_init s), ← hword]
  rfl

/-- Settles O11: STATUS is always accepted and only responds, with CAUSE and PHASE as they are. -/
theorem statusReportsPhaseAndCause : Obligations.StatusReportsPhaseAndCause := by
  unfold Obligations.StatusReportsPhaseAndCause
  refine ⟨exec_status, rfl, fun _ => decode_argNotZero (.inl rfl), fun s hphase hcause => ?_⟩
  rw [exec_status, respond, hphase, hcause]
  rfl

/-- INIT writes constants, so a second INIT finds them written (R153). -/
theorem startComputation_idempotent (s : State) (rsps : List PortWord) :
    startComputation { startComputation s with rsps := rsps } = { startComputation s with rsps := rsps } := rfl

/-- Settles O12: INIT is always accepted, and `startComputation` is idempotent. -/
theorem initStartsComputation : Obligations.InitStartsComputation := by
  unfold Obligations.InitStartsComputation
  refine ⟨exec_init, fun s t u ht hu => ?_, rfl, fun _ => decode_argNotZero (.inr (.inl rfl))⟩
  rw [exec_init] at ht hu
  cases ht
  cases hu
  rw [startComputation_idempotent]

/-! ### ABSORB -/

section Absorb
variable {s : State} (b : Byte)

theorem exec_absorb (hphase : s.phase = .absorbing) (hlen : s.len.toNat ≠ 2 ^ 61 - 1) :
    exec (.absorb b) s = .next (respond false 0x00 (absorbByte b s)) :=
  exec_of_accepted (by rw [firstFailure_absorb, if_neg (by simpa using hphase), if_neg hlen])

theorem exec_absorb_badPhase (hphase : s.phase ≠ .absorbing) :
    exec (.absorb b) s = .next (rejectedWith .badPhase s) :=
  exec_eq_rejectedWith (by rw [firstFailure_absorb, if_pos hphase])

theorem exec_absorb_lenOverflow (hphase : s.phase = .absorbing) (hlen : s.len.toNat = 2 ^ 61 - 1) :
    exec (.absorb b) s = .next (rejectedWith .lenOverflow s) :=
  exec_eq_rejectedWith (by rw [firstFailure_absorb, if_neg (by simpa using hphase), if_pos hlen])

end Absorb

/-- Below the largest length the counter does not wrap (R28). -/
theorem len_succ_toNat {n : Len61} (h : n.toNat ≠ 2 ^ 61 - 1) : (n + 1).toNat = n.toNat + 1 := by
  bv_omega

/-- Settles O13: the checks of ABSORB decide its three cases, and `absorbByte` is read field by field. -/
theorem absorbStoresOneByte : Obligations.AbsorbStoresOneByte := by
  unfold Obligations.AbsorbStoresOneByte
  refine ⟨fun s b hphase hlen => ⟨_, exec_absorb b hphase hlen, fun k hk => ?_, len_succ_toNat hlen, absorbByte_h b s,
      hphase, rfl, rfl, rfl, rfl, ?_⟩,
    fun s b => exec_absorb_badPhase b, fun s b => exec_absorb_lenOverflow b, append_arg_eq_or 0x02⟩
  · rw [respond_buf, absorbByte_buf_getElem b s k hk]
    exact if_congr eq_comm rfl rfl
  · rw [respond_rsps, absorbByte_phase, hphase]
    rfl

/-! ### FINAL -/

section Final
variable {s : State}

theorem exec_final (hphase : s.phase = .absorbing) : exec .final s = .next (respond false 0x00 (finish s)) :=
  exec_of_accepted (by rw [firstFailure_final, if_neg (by simpa using hphase)])

theorem exec_final_badPhase (hphase : s.phase ≠ .absorbing) : exec .final s = .next (rejectedWith .badPhase s) :=
  exec_eq_rejectedWith (by rw [firstFailure_final, if_pos hphase])

end Final

/-- Byte k of `be32` (R10). -/
theorem be32_getElem (x : Word) {k : Nat} (hk : k < 4) : (be32 x)[k] = x.extractLsb' (24 - 8 * k) 8 := by
  match k, hk with
  | 0, _ | 1, _ | 2, _ | 3, _ => rfl

/-- Byte r of word q is byte 4q + r of the digest (R134): the five words are laid side by side, one case each. -/
theorem serialize_getElem (H : HashState) {q r : Nat} (hq : q < 5) (hr : r < 4) :
    (serialize H)[4 * q + r] = (be32 H[q])[r] := by
  have hlayout : ∀ i (_ : i < 20), (serialize H)[i] = (be32 H[0] ++ be32 H[1] ++ be32 H[2] ++ be32 H[3] ++
      be32 H[4] : Vector Byte (4 + 4 + 4 + 4 + 4))[i] := fun _ _ => rfl
  have hcases : q = 0 ∨ q = 1 ∨ q = 2 ∨ q = 3 ∨ q = 4 := by omega
  simp only [hlayout, Vector.getElem_append]
  rcases hcases with rfl | rfl | rfl | rfl | rfl <;>
    simp (disch := omega) only [dif_pos, dif_neg, Nat.mul_zero, Nat.zero_add, Nat.add_sub_cancel_left]

/-- Byte i of the digest as a number (R54). -/
theorem serialize_getElem_toNat (H : HashState) {i : Nat} (hi : i < 20) :
    (serialize H)[i].toNat = H[i / 4].toNat / 2 ^ (24 - 8 * (i % 4)) % 256 := by
  have hword : i / 4 < 5 := by omega
  have hbyte : i % 4 < 4 := by omega
  have hbytes := serialize_getElem H hword hbyte
  simp only [Nat.div_add_mod] at hbytes
  rw [hbytes, be32_getElem _ hbyte, BitVec.extractLsb'_toNat, Nat.shiftRight_eq_div_pow]

/-- Settles O14: FINAL is accepted in ABSORBING only; H is `finalHash`, one compression or two, and DIGEST its bytes. -/
theorem finalWritesDigest : Obligations.FinalWritesDigest := by
  unfold Obligations.FinalWritesDigest
  refine ⟨fun s hphase => ⟨_, exec_final hphase, fun hone => ?_, fun htwo => ?_,
      fun i hi => serialize_getElem_toNat (finalHash s) hi, rfl, rfl, rfl, rfl, rfl, rfl, rfl, rfl⟩,
    fun s => exec_final_badPhase, rfl, fun _ => decode_argNotZero (.inr (.inr rfl))⟩
  · exact (finalHash_eq s).trans (if_neg (Nat.not_le_of_gt (Nat.lt_succ_of_le hone)))
  · exact (finalHash_eq s).trans (if_pos htwo)

/-! ### READ -/

section Read
variable {s : State} {i : Nat}

theorem digestByte_of_lt (hi : i < 20) : digestByte i s = s.digest[i] := dif_pos hi

theorem exec_read (hphase : s.phase = .done) (hi : i < 20) :
    exec (.read i) s = .next (respond false s.digest[i] s) := by
  rw [exec_of_accepted (by rw [firstFailure_read, if_neg (by simpa using hphase), if_neg (by omega)]), dataOf,
    digestByte_of_lt hi, effectOf]

theorem exec_read_badIndex (hphase : s.phase = .done) (hi : 20 ≤ i) :
    exec (.read i) s = .next (rejectedWith .badIndex s) :=
  exec_eq_rejectedWith (by rw [firstFailure_read, if_neg (by simpa using hphase), if_pos hi])

theorem exec_read_badPhase (i : Nat) (hphase : s.phase ≠ .done) :
    exec (.read i) s = .next (rejectedWith .badPhase s) :=
  exec_eq_rejectedWith (by rw [firstFailure_read, if_pos hphase])

end Read

/-- Settles O15: the checks of READ decide its three cases, and an accepted READ only responds. -/
theorem readReturnsDigestByte : Obligations.ReadReturnsDigestByte := by
  unfold Obligations.ReadReturnsDigestByte
  refine ⟨fun s i hi hphase => ?_, fun s i => exec_read_badIndex, fun s i => exec_read_badPhase i, fun b => ?_⟩
  · rw [exec_read hphase hi, respond, hphase]
    rfl
  · rw [encode, argOf, BitVec.ofNat_toNat, BitVec.setWidth_eq]
    exact append_arg_eq_or 0x04 b

/-! ### The phase transition table -/

@[simp] theorem rejectedWith_phase (c : Cause) (s : State) : (rejectedWith c s).phase = .failed := rfl

@[simp] theorem rejectedWith_cause (c : Cause) (s : State) :
    (rejectedWith c s).cause = if s.phase = .failed then s.cause else c := rfl

/-- Settles O21: one case per cell of the table, each by the command's own equation in that phase. -/
theorem phaseTransitionTable : Obligations.PhaseTransitionTable := by
  unfold Obligations.PhaseTransitionTable
  refine ⟨fun i s => ?_, fun s => ⟨_, rfl, reject_phase .., reject_cause ..⟩⟩
  cases i with
  | status => exact ⟨_, exec_status s, rfl, rfl⟩
  | init => exact ⟨_, exec_init s, rfl, rfl⟩
  | absorb b =>
    cases hp : s.phase with
    | absorbing =>
      by_cases hlen : s.len.toNat = 2 ^ 61 - 1
      · exact ⟨_, exec_absorb_lenOverflow b hp hlen, (if_pos hlen).symm, by simp [hlen, hp]⟩
      · exact ⟨_, exec_absorb b hp hlen, hp.trans (if_neg hlen).symm, (if_neg hlen).symm⟩
    | idle | done | failed => exact ⟨_, exec_absorb_badPhase b (by simp [hp]), rfl, by simp [hp]⟩
  | final =>
    cases hp : s.phase with
    | absorbing => exact ⟨_, exec_final hp, rfl, rfl⟩
    | idle | done | failed => exact ⟨_, exec_final_badPhase (by simp [hp]), rfl, by simp [hp]⟩
  | read k =>
    cases hp : s.phase with
    | done =>
      by_cases hk : k ≤ 19
      · exact ⟨_, exec_read hp (Nat.lt_succ_of_le hk), hp.trans (if_pos hk).symm, (if_pos hk).symm⟩
      · exact ⟨_, exec_read_badIndex hp (Nat.lt_of_not_le hk), (if_neg hk).symm, by simp [hk, hp]⟩
    | idle | absorbing | failed => exact ⟨_, exec_read_badPhase k (by simp [hp]), rfl, by simp [hp]⟩

end Sys2Proof.Machine

/-! PROOFS. The engine's one exception, the rejection (spec/60_exceptions.md R170 to R179): which check decides it, what
it writes, and the ways out of FAILED. -/

namespace Sys2Proof.Machine

/-! ### What a rejection writes -/

section RejectByPhase
variable (c : Cause) {s : State}

/-- In FAILED a rejection writes no register: it only answers, with the CAUSE that the first rejection stored (R179). -/
theorem reject_of_failed (hs : s.phase = .failed) :
    reject c s = { s with rsps := s.rsps ++ [responseWord true s.cause .failed 0x00] } := by
  rw [reject, enterFailed, if_pos hs, respond, hs]

/-- In every other phase a rejection writes PHASE and CAUSE (R176). -/
theorem reject_of_not_failed (hs : s.phase ≠ .failed) :
    reject c s = { s with
      cause := c, phase := .failed, rsps := s.rsps ++ [responseWord true c .failed 0x00] } := by
  rw [reject, enterFailed, if_neg hs, respond]

end RejectByPhase

/-- Settles O17: the two equations of `reject`, and the fields of its response word. -/
theorem rejectionWritesPhaseAndCause : Obligations.RejectionWritesPhaseAndCause := by
  unfold Obligations.RejectionWritesPhaseAndCause
  intro c s _
  refine ⟨responseWord true (reject c s).cause .failed 0x00, ?_, responseWord_rejBit .., responseWord_dataField ..,
    responseWord_causeField .., responseWord_phaseField ..⟩
  rw [reject_cause]
  split_ifs with hs
  · exact reject_of_failed c hs
  · exact reject_of_not_failed c hs

/-! ### Which check decides -/

section StepByCheck
variable {s : State} {w : PortWord} {rest : List HostAction} {i : Instr}

theorem step_rejects_of_illegal {why : Reserved} (hhost : s.host = .command w :: rest)
    (hdec : decode w = .illegal why) : step s = .next (rejectedWith .illegalCmd { s with host := rest }) := by
  rw [step_of_illegal hhost hdec, reject_eq]

theorem step_rejects_of_firstFailure {c : Cause} (hhost : s.host = .command w :: rest) (hdec : decode w = .instr i)
    (hfail : firstFailure i { s with host := rest } = some c) :
    step s = .next (rejectedWith c { s with host := rest }) :=
  (step_of_instr hhost hdec).trans (exec_eq_rejectedWith hfail)

/-- A command that no check rejects is answered with REJ = 0 (R151 step 5). -/
theorem step_accepts_of_no_failure (hhost : s.host = .command w :: rest) (hdec : decode w = .instr i)
    (hacc : firstFailure i { s with host := rest } = none) :
    ∃ t r, step s = .next t ∧ t.rsps = s.rsps ++ [r] ∧ r.getLsbD 15 = false :=
  ⟨_, _, (step_of_instr hhost hdec).trans (exec_of_accepted hacc), respond_effectOf_rsps .., responseWord_rejBit ..⟩

end StepByCheck

/-- Settles O16: the word decides ILLEGAL_CMD, and each instruction's own list of checks (`firstFailure_absorb` and its
like) the rest. -/
theorem firstFailingCheckDecides : Obligations.FirstFailingCheckDecides := by
  unfold Obligations.FirstFailingCheckDecides
  intro s w rest hhost s' accepted
  cases hdec : decode w with
  | illegal why => exact step_rejects_of_illegal hhost hdec
  | instr i =>
    cases i with
    | status => exact step_accepts_of_no_failure hhost hdec (firstFailure_status _)
    | init => exact step_accepts_of_no_failure hhost hdec (firstFailure_init _)
    | absorb b =>
      have hchecks := firstFailure_absorb b s'
      dsimp only
      split_ifs with hphase hlen
      · exact step_rejects_of_firstFailure hhost hdec (hchecks.trans (if_pos hphase))
      · exact step_rejects_of_firstFailure hhost hdec (hchecks.trans ((if_neg hphase).trans (if_pos hlen)))
      · exact step_accepts_of_no_failure hhost hdec (hchecks.trans ((if_neg hphase).trans (if_neg hlen)))
    | final =>
      have hchecks := firstFailure_final s'
      dsimp only
      split_ifs with hphase
      · exact step_rejects_of_firstFailure hhost hdec (hchecks.trans (if_pos hphase))
      · exact step_accepts_of_no_failure hhost hdec (hchecks.trans (if_neg hphase))
    | read k =>
      have hchecks := firstFailure_read k s'
      dsimp only
      split_ifs with hphase hindex
      · exact step_rejects_of_firstFailure hhost hdec (hchecks.trans (if_pos hphase))
      · exact step_rejects_of_firstFailure hhost hdec (hchecks.trans ((if_neg hphase).trans (if_pos hindex)))
      · exact step_accepts_of_no_failure hhost hdec (hchecks.trans ((if_neg hphase).trans (if_neg hindex)))

/-! ### Phase FAILED -/

/-- In FAILED only STATUS and INIT pass the phase check (R157). -/
theorem firstFailure_in_failed {i : Instr} {s : State} (hs : s.phase = .failed) (hstatus : i ≠ .status)
    (hinit : i ≠ .init) : firstFailure i s = some .badPhase := by
  have hlegal : legalIn i s.phase = false := by
    cases i with
    | status => exact absurd rfl hstatus
    | init => exact absurd rfl hinit
    | absorb | final | read => rw [hs]; rfl
  exact if_pos hlegal

/-- In FAILED every word but those of STATUS and INIT is rejected, for whatever cause. -/
theorem step_rejects_in_failed {s : State} {w : PortWord} {rest : List HostAction} (hs : s.phase = .failed)
    (hhost : s.host = .command w :: rest) (hstatus : w ≠ 0x0000) (hinit : w ≠ 0x0100) :
    ∃ c, step s = .next (reject c { s with host := rest }) := by
  cases hdec : decode w with
  | illegal why => exact ⟨_, step_of_illegal hhost hdec⟩
  | instr i =>
    have hi_status : i ≠ .status := by
      rintro rfl
      exact hstatus ((decode_eq_status_iff w).1 hdec)
    have hi_init : i ≠ .init := by
      rintro rfl
      exact hinit ((decode_eq_init_iff w).1 hdec)
    exact ⟨_, (step_of_instr hhost hdec).trans (exec_of_rejected (firstFailure_in_failed hs hi_status hi_init))⟩

/-- Settles O18: the rejection is `reject_of_failed`, whichever check asked for it; STATUS and INIT have no check. -/
theorem rejectionInFailedChangesNothing : Obligations.RejectionInFailedChangesNothing := by
  unfold Obligations.RejectionInFailedChangesNothing
  refine fun s w rest hs hhost => ⟨fun ⟨hstatus, hinit⟩ => ?_, ?_⟩
  · obtain ⟨c, hstep⟩ := step_rejects_in_failed hs hhost hstatus hinit
    have hanswer := reject_of_failed c (s := { s with host := rest }) hs
    exact hstep.trans (congrArg _ hanswer)
  · rintro (hstatus | hinit)
    · exact step_accepts_of_no_failure hhost ((decode_eq_status_iff w).2 hstatus) (firstFailure_status _)
    · exact step_accepts_of_no_failure hhost ((decode_eq_init_iff w).2 hinit) (firstFailure_init _)

/-- Settles O19: `step_leaves_failed` names the two ways out, and the step of each says what it leaves. -/
theorem onlyInitAndResetLeaveFailed : Obligations.OnlyInitAndResetLeaveFailed := by
  unfold Obligations.OnlyInitAndResetLeaveFailed
  refine fun s t h hs => ⟨⟨step_leaves_failed h hs, ?_⟩, fun rest hinit => ?_, fun rest hreset => ?_⟩
  · rintro ⟨rest, hhost⟩
    rcases step_of_restart_phase h hhost with hp | hp <;> simp [hp]
  · rw [step_of_init hinit] at h
    cases h
    exact ⟨rfl, rfl, rfl, rfl⟩
  · rw [step_of_reset hreset] at h
    cases h
    exact ⟨rfl, rfl⟩

end Sys2Proof.Machine

/-! PROOFS. Reset (spec/70_reset_and_hazards.md R190): it opens no computation and holds no digest, so no later command
can tell what the registers held before it, nor what they hold after it. -/

namespace Sys2Proof.Machine

/-- In a phase where no computation is open and no digest can be read, the host sees PHASE, CAUSE and the port only, so
H, LEN, BUF and DIGEST may differ (R38, R40). -/
theorem obsEq_of_registers_unread {s t : State} (hopen : s.phase ≠ .absorbing) (hdone : s.phase ≠ .done)
    (hphase : s.phase = t.phase) (hcause : s.cause = t.cause) (hhost : s.host = t.host) (hrsps : s.rsps = t.rsps) :
    ObsEq s t :=
  ⟨hphase, hcause, hhost, hrsps, fun h => absurd h hopen, fun h => absurd h hdone⟩

/-- Two resets that find the same port leave the same observable condition, whatever the free values of each. -/
theorem resetEngine_obsEq {s t : State} (hhost : s.host = t.host) (hrsps : s.rsps = t.rsps) :
    ObsEq (resetEngine s) (resetEngine t) :=
  obsEq_of_registers_unread (by simp) (by simp) rfl rfl hhost hrsps

/-- Settles O30: the step is `resetEngine` of a state with the same port, and `resetEngine_obsEq` compares two of them. -/
theorem resetForgetsEverything : Obligations.ResetForgetsEverything := by
  unfold Obligations.ResetForgetsEverything
  intro s rest hreset
  exact ⟨_, step_of_reset hreset, resetEngine_phase _, resetEngine_cause _, resetEngine_host _, resetEngine_rsps _,
    fun s₂ hhost hrsps => ⟨_, step_of_reset (hhost.trans hreset), resetEngine_obsEq rfl hrsps.symm⟩⟩

end Sys2Proof.Machine

/-! PROOFS. The decoder and the encoder are inverse to each other (spec/30_encoding.md R72 to R74), the words that the
spec lists (R83), and the step of each host action (spec/45_commands.md R150, R151). -/

namespace Sys2Proof.Machine

/-! ### Decoding and encoding -/

/-- An operand that its field can hold survives the encoding: the decoder finds the row's OP and reads the ARG back. -/
theorem decode_encode {i : Instr} (hwf : WellFormed i = true) : decode (encode i) = .instr i := by
  cases i with
  | status => exact (decode_eq_status_iff _).2 rfl
  | init => exact (decode_eq_init_iff _).2 rfl
  | absorb b => exact (decode_eq_absorb_iff _ b).2 ⟨opField_append .., (argField_append ..).symm⟩
  | final => exact (decode_eq_final_iff _).2 rfl
  | read k =>
    have hk : k < 2 ^ 8 := of_decide_eq_true hwf
    refine (decode_eq_read_iff _ k).2 ⟨opField_append .., ?_⟩
    rw [encode, argField_append, argOf, BitVec.toNat_ofNat, Nat.mod_eq_of_lt hk]

/-- Settles O4: each command by the lemma that says which words decode to it. -/
theorem decodeOfEncode : Obligations.DecodeOfEncode := by
  unfold Obligations.DecodeOfEncode
  exact fun _ => decode_encode

/-- A READ index comes out of the 8-bit ARG field, so the decoder answers no ill-formed instruction (R73). -/
theorem wellFormed_of_decode {w : PortWord} {i : Instr} (hdec : decode w = .instr i) : WellFormed i = true := by
  cases i with
  | read k =>
    obtain ⟨-, rfl⟩ := (decode_eq_read_iff w k).1 hdec
    exact decide_eq_true (argField w).isLt
  | status | init | absorb | final => rfl

/-- Settles O5: `encode_of_decode` gives the word, and the operand fits its field. -/
theorem encodeOfDecode : Obligations.EncodeOfDecode := by
  unfold Obligations.EncodeOfDecode
  exact fun _ _ hdec => ⟨wellFormed_of_decode hdec, encode_of_decode hdec⟩

/-- Settles O1: a listed command word is the encoding of its command, a listed reserved word is reserved by its ARG or
by its OP. -/
theorem specWordsDecodeAsListed : Obligations.SpecWordsDecodeAsListed := by
  unfold Obligations.SpecWordsDecodeAsListed
  refine ⟨decodeOfEncode .status rfl, decodeOfEncode .init rfl, decodeOfEncode (.absorb 0x00) rfl,
    decodeOfEncode (.absorb 0x61) rfl, decodeOfEncode (.absorb 0x80) rfl, decodeOfEncode (.absorb 0xFF) rfl,
    decodeOfEncode .final rfl, decodeOfEncode (.read 0) rfl, decodeOfEncode (.read 19) rfl,
    decodeOfEncode (.read 20) rfl, decodeOfEncode (.read 255) rfl,
    decode_argNotZero (op := 0x01) (arg := 0x01) (.inr (.inl rfl)) (by decide),
    decode_argNotZero (op := 0x00) (arg := 0x01) (.inl rfl) (by decide),
    decode_argNotZero (op := 0x03) (arg := 0x01) (.inr (.inr rfl)) (by decide),
    decode_argNotZero (op := 0x03) (arg := 0xFF) (.inr (.inr rfl)) (by decide), ?_, ?_, ?_⟩
  · decide
  · decide
  · decide

/-! ### The step of each host action -/

theorem step_of_no_action {s : State} (hhost : s.host = []) : step s = .next s := by
  rw [step, takeAction_nil hhost]

/-- Settles O6: one lemma per kind of host action. -/
theorem stepRunsDecodedCommand : Obligations.StepRunsDecodedCommand := by
  unfold Obligations.StepRunsDecodedCommand
  refine ⟨fun _ _ _ _ => step_of_instr, fun _ _ _ _ hhost hdec => ?_, fun _ _ => step_of_reset,
    fun _ => step_of_no_action⟩
  exact step_of_illegal hhost hdec

/-- No host action stops the engine: a command is rejected or accepted, and both are next states. -/
theorem step_answers_next (s : State) : ∃ t, step s = .next t := by
  cases hhost : s.host with
  | nil => exact ⟨s, step_of_no_action hhost⟩
  | cons a rest =>
    cases a with
    | reset => exact ⟨_, step_of_reset hhost⟩
    | command w =>
      rcases step_of_command_cases hhost with ⟨c, -, hstep⟩ | ⟨i, -, -, hstep⟩
      · exact ⟨_, hstep⟩
      · exact ⟨_, hstep⟩

/-- Settles O7: `step_answers_next`. -/
theorem everyStepAnswersNext : Obligations.EveryStepAnswersNext := by
  unfold Obligations.EveryStepAnswersNext
  exact step_answers_next

/-! ### PHASE and CAUSE as numbers -/

/-- A field of a bit vector as a number. -/
theorem field_toNat {n : Nat} (x : BitVec n) (start width : Nat) :
    x.toNat / 2 ^ start % 2 ^ width = (x.extractLsb' start width).toNat := by
  rw [BitVec.extractLsb'_toNat, Nat.shiftRight_eq_div_pow]

theorem responseWord_phase_toNat (rej : Bool) (c : Cause) (p : Phase) (d : Byte) :
    (responseWord rej c p d).toNat / 1024 % 4 = (phaseCode p).toNat :=
  (field_toNat _ 10 2).trans (congrArg BitVec.toNat (responseWord_phaseField ..))

theorem responseWord_cause_toNat (rej : Bool) (c : Cause) (p : Phase) (d : Byte) :
    (responseWord rej c p d).toNat / 4096 % 8 = (causeCode c).toNat :=
  (field_toNat _ 12 3).trans (congrArg BitVec.toNat (responseWord_causeField ..))

/-- Settles O8: the two fields of a response word hold the two codes, of which the values are R21's and R26's. -/
theorem phaseAndCauseCodes : Obligations.PhaseAndCauseCodes := by
  unfold Obligations.PhaseAndCauseCodes
  simp only [responseWord_phase_toNat, responseWord_cause_toNat]
  exact ⟨fun _ _ _ => ⟨rfl, rfl, rfl, rfl⟩, fun _ _ _ => ⟨rfl, rfl, rfl, rfl, rfl⟩⟩

end Sys2Proof.Machine

/-! PROOFS. What every step keeps (spec/10_state.md sections 5 and 8): the invariant of PHASE, CAUSE and DIGEST, from
which follow the response words that occur (spec/30_encoding.md R71). -/

namespace Sys2Proof.Machine

/-! ### When a command passes its checks -/

theorem absorb_accepted_iff (b : Byte) (s : State) :
    firstFailure (.absorb b) s = none ↔ s.phase = .absorbing ∧ s.len.toNat ≠ 2 ^ 61 - 1 := by
  rw [firstFailure_absorb]
  split_ifs with hphase hlen <;> simp_all

theorem final_accepted_iff (s : State) : firstFailure .final s = none ↔ s.phase = .absorbing := by
  simp [firstFailure_final]

theorem read_accepted_iff (k : Nat) (s : State) : firstFailure (.read k) s = none ↔ s.phase = .done ∧ k < 20 := by
  rw [firstFailure_read]
  split_ifs with hphase hindex <;> simp_all

/-! ### The invariant -/

/-- A state without a cause and not in FAILED keeps the invariant when its digest is good, if it is in DONE. -/
theorem phaseInv_of_cause_none {s : State} (hcause : s.cause = .none) (hfailed : s.phase ≠ .failed)
    (hdigest : s.phase = .done → s.digest = serialize s.h) : PhaseInv s :=
  ⟨iff_of_false (not_not_intro hcause) hfailed, hdigest⟩

/-- Outside FAILED no cause is stored (R27). -/
theorem PhaseInv.cause_eq_none {s : State} {p : Phase} (hinv : PhaseInv s) (hphase : s.phase = p) (hp : p ≠ .failed) :
    s.cause = .none := by
  obtain ⟨hcause, -⟩ := hinv
  exact not_not.1 (mt hcause.1 (hphase ▸ hp))

/-- In FAILED the cause of the first rejection is stored (R27). -/
theorem PhaseInv.cause_ne_none {s : State} (hinv : PhaseInv s) (hphase : s.phase = .failed) : s.cause ≠ .none := by
  obtain ⟨hcause, -⟩ := hinv
  exact hcause.2 hphase

/-- A rejection leaves a cause: its own, or the one that FAILED has stored. -/
theorem PhaseInv.reject_cause_ne_none {c : Cause} {s : State} (hinv : PhaseInv s) (hc : c ≠ .none) :
    (reject c s).cause ≠ .none := by
  rw [reject_cause]
  split_ifs with hphase
  · exact hinv.cause_ne_none hphase
  · exact hc

theorem PhaseInv.rejected {c : Cause} {s : State} (hinv : PhaseInv s) (hc : c ≠ .none) : PhaseInv (reject c s) :=
  ⟨iff_of_true (hinv.reject_cause_ne_none hc) (reject_phase c s), by simp⟩

/-- INIT clears CAUSE; ABSORB and FINAL are accepted in ABSORBING, where it is clear, and FINAL serializes the H it
leaves. -/
theorem PhaseInv.accepted {i : Instr} {s : State} (hinv : PhaseInv s) (hacc : firstFailure i s = none) :
    PhaseInv (effectOf i s) := by
  cases i with
  | status | read => exact hinv
  | init => exact phaseInv_of_cause_none rfl (by simp [effectOf]) (by simp [effectOf])
  | absorb b =>
    obtain ⟨hphase, -⟩ := (absorb_accepted_iff b s).1 hacc
    exact phaseInv_of_cause_none (hinv.cause_eq_none hphase (by decide)) (by simp [effectOf, hphase])
      (by simp [effectOf, hphase])
  | final =>
    have hphase := (final_accepted_iff s).1 hacc
    exact phaseInv_of_cause_none (hinv.cause_eq_none hphase (by decide)) (by simp [effectOf]) fun _ => rfl

/-- Settles O28: a command is rejected or accepted, and both keep the invariant; a reset clears CAUSE and enters
IDLE. -/
theorem stepKeepsPhaseInv : Obligations.StepKeepsPhaseInv := by
  unfold Obligations.StepKeepsPhaseInv
  intro s t hinv hstep
  rcases step_cases hstep with ⟨-, rfl⟩ | ⟨rest, -, rfl⟩ | ⟨w, rest, i, -, -, hexec⟩ | ⟨w, rest, why, -, -, rfl⟩
  · exact hinv
  · exact phaseInv_of_cause_none rfl (by simp) (by simp)
  · have hinv' : PhaseInv { s with host := rest } := hinv
    rcases exec_cases hexec with ⟨c, hrej, rfl⟩ | ⟨hacc, rfl⟩
    · exact hinv'.rejected (firstFailure_ne_none hrej)
    · exact hinv'.accepted hacc
  · exact PhaseInv.rejected (s := { s with host := rest }) hinv (by decide)

/-- Settles O27: PHASE is IDLE and CAUSE is clear. -/
theorem phaseInvAtReset : Obligations.PhaseInvAtReset := by
  unfold Obligations.PhaseInvAtReset
  exact phaseInv_of_cause_none rfl (by decide) (by decide)

/-! ### The response words that occur -/

/-- The answer of STATUS in FAILED: one of R71's four words, by the cause stored. -/
theorem responseWord_accepted_failed {c : Cause} {p : Phase} (hc : c ≠ .none) (hphase : p = .failed) :
    responseWord false c p 0x00 ∈ [0x1C00#16, 0x2C00, 0x3C00, 0x4C00] := by
  subst hphase
  cases c with
  | none => exact absurd rfl hc
  | illegalCmd | badPhase | badIndex | lenOverflow => decide

/-- The answer of a rejection: the same with REJ set. -/
theorem responseWord_rejected {c : Cause} (hc : c ≠ .none) :
    responseWord true c .failed 0x00 ∈ [0x9C00#16, 0xAC00, 0xBC00, 0xCC00] := by
  cases c with
  | none => exact absurd rfl hc
  | illegalCmd | badPhase | badIndex | lenOverflow => decide

section AcceptedWord
variable {c : Cause} {p : Phase} (hcause : c = .none)
include hcause

theorem responseWord_accepted_idle (hphase : p = .idle) : responseWord false c p 0x00 = 0x0000 := by
  rw [hcause, hphase]
  decide

theorem responseWord_accepted_absorbing (hphase : p = .absorbing) : responseWord false c p 0x00 = 0x0400 := by
  rw [hcause, hphase]
  decide

theorem responseWord_accepted_done (hphase : p = .done) : responseWord false c p 0x00 = 0x0800 := by
  rw [hcause, hphase]
  decide

/-- Everything above DATA in the answer of an accepted READ. -/
theorem responseWord_read_high (hphase : p = .done) (data : Byte) :
    (responseWord false c p data).extractLsb' 8 8 = 0x08#8 := by
  rw [hcause, hphase]
  exact BitVec.extractLsb'_append_eq_left

end AcceptedWord

/-- The words of STATUS and INIT are never rejected. -/
theorem word_of_rejection {s : State} {w : PortWord} {rest : List HostAction} {c : Cause}
    (hhost : s.host = .command w :: rest) (hrej : step s = .next (reject c { s with host := rest })) :
    w ≠ 0x0000 ∧ w ≠ 0x0100 := by
  rw [reject_eq] at hrej
  constructor
  · rintro rfl
    have hacc := (step_of_instr hhost ((decode_eq_status_iff _).2 rfl)).trans (exec_status _)
    exact accepted_ne_rejectedWith .status _ _ _ (Host.Outcome.next.inj (hacc.symm.trans hrej))
  · rintro rfl
    exact accepted_ne_rejectedWith .init _ _ _ (Host.Outcome.next.inj ((step_of_init hhost).symm.trans hrej))

/-- Settles O10: the invariant leaves no cause outside FAILED and one of four in it, so PHASE after the command and the
command's DATA give the word. -/
theorem responseWordsThatOccur : Obligations.ResponseWordsThatOccur := by
  unfold Obligations.ResponseWordsThatOccur
  intro s w rest hinv hhost
  have hinv' : PhaseInv { s with host := rest } := hinv
  rcases step_of_command_cases hhost with ⟨c, hc, hstep⟩ | ⟨i, hdec, hacc, hstep⟩
  · obtain ⟨hstatus, hinit⟩ := word_of_rejection hhost hstep
    exact ⟨_, _, hstep, reject_rsps .., .inr (.inr (.inr (.inr (.inr
      ⟨responseWord_rejected (hinv'.reject_cause_ne_none hc), hstatus, hinit, reject_phase ..⟩))))⟩
  · refine ⟨_, _, hstep, respond_effectOf_rsps .., ?_⟩
    obtain rfl := encode_of_decode hdec
    generalize { s with host := rest } = s' at hinv' hacc ⊢
    cases i with
    | status =>
      cases hphase : s'.phase with
      | idle =>
        have hcause := hinv'.cause_eq_none hphase (by decide)
        exact .inl ⟨responseWord_accepted_idle hcause hphase, rfl, hphase⟩
      | absorbing =>
        have hcause := hinv'.cause_eq_none hphase (by decide)
        exact .inr (.inl ⟨responseWord_accepted_absorbing hcause hphase, hphase⟩)
      | done =>
        have hcause := hinv'.cause_eq_none hphase (by decide)
        exact .inr (.inr (.inl ⟨responseWord_accepted_done hcause hphase, .inr rfl, hphase⟩))
      | failed =>
        exact .inr (.inr (.inr (.inr (.inl
          ⟨responseWord_accepted_failed (hinv'.cause_ne_none hphase) hphase, rfl, hphase⟩))))
    | init => exact .inr (.inl ⟨responseWord_accepted_absorbing rfl rfl, rfl⟩)
    | absorb b =>
      obtain ⟨hphase, -⟩ := (absorb_accepted_iff b _).1 hacc
      have hcause := hinv'.cause_eq_none hphase (by decide)
      exact .inr (.inl ⟨responseWord_accepted_absorbing hcause hphase, hphase⟩)
    | final =>
      have hphase := (final_accepted_iff _).1 hacc
      have hcause := hinv'.cause_eq_none hphase (by decide)
      exact .inr (.inr (.inl ⟨responseWord_accepted_done hcause rfl, .inl rfl, rfl⟩))
    | read k =>
      obtain ⟨hphase, hk⟩ := (read_accepted_iff k _).1 hacc
      have hcause := hinv'.cause_eq_none hphase (by decide)
      exact .inr (.inr (.inr (.inl ⟨responseWord_read_high hcause hphase _, ⟨k, hk, rfl⟩, hphase⟩)))

end Sys2Proof.Machine

/-! PROOFS. What the host can never see (spec/10_state.md sections 8 to 10, R38 and R40): states that differ only in
registers that nothing has written answer every command alike. -/

namespace Sys2Proof.Machine

/-! ### The tail depends on the bytes still in BUF -/

/-- `Tail` reads no byte of the buffer at or beyond r (R95). -/
theorem tail_congr {r : Nat} {buf buf' : List Byte} (hbytes : ∀ j, j < r → buf[j]? = buf'[j]?) (n : Len61) :
    tail r buf n = tail r buf' n := by
  have htake : buf.take r = buf'.take r := by
    refine List.ext_getElem? fun j => ?_
    rw [List.getElem?_take, List.getElem?_take]
    split_ifs with hj
    · exact hbytes j hj
    · rfl
  rw [tail, tail, htake]

/-! ### Observably equal states -/

theorem pending_succ_le (n : Len61) : pending (n + 1) ≤ pending n + 1 := by
  have hsucc : (n + 1).toNat = (n.toNat + 1) % 2 ^ 61 := BitVec.toNat_add n 1
  unfold pending
  omega

/-- INIT writes every register that can then be read, so only the port has to agree. -/
theorem startComputation_obsEq {s t : State} (hhost : s.host = t.host) (hrsps : s.rsps = t.rsps) :
    ObsEq (startComputation s) (startComputation t) :=
  ⟨rfl, rfl, hhost, hrsps, fun _ => ⟨rfl, rfl, fun _ hk => absurd hk (by simp)⟩, nofun⟩

section ObsEq
variable {s t : State} (h : ObsEq s t)
include h

theorem ObsEq.phase_eq : s.phase = t.phase := by
  obtain ⟨hphase, -⟩ := h
  exact hphase

theorem ObsEq.host_eq : s.host = t.host := by
  obtain ⟨-, -, hhost, -⟩ := h
  exact hhost

theorem ObsEq.rsps_eq : s.rsps = t.rsps := by
  obtain ⟨-, -, -, hrsps, -⟩ := h
  exact hrsps

/-- In ABSORBING the open computation is the same: H, LEN and the bytes of the unfinished block. -/
theorem ObsEq.absorbing (hphase : s.phase = .absorbing) :
    s.h = t.h ∧ s.len = t.len ∧ ∀ k (_ : k < 64), k < pending s.len → s.buf[k] = t.buf[k] := by
  obtain ⟨-, -, -, -, hopen, -⟩ := h
  obtain ⟨hh, hlen, hbuf⟩ := hopen hphase
  exact ⟨hh, hlen, fun k _ hk => hbuf k hk⟩

/-- An action taken from both sides leaves them observably equal. -/
theorem ObsEq.take_action (rest : List HostAction) : ObsEq { s with host := rest } { t with host := rest } := by
  obtain ⟨hphase, hcause, -, hrsps, hopen, hdone⟩ := h
  exact ⟨hphase, hcause, rfl, hrsps, hopen, hdone⟩

/-- The response shows CAUSE and PHASE only, which agree. -/
theorem respond_obsEq (rej : Bool) (data : Byte) : ObsEq (respond rej data s) (respond rej data t) := by
  obtain ⟨hphase, hcause, hhost, hrsps, hopen, hdone⟩ := h
  refine ⟨hphase, hcause, hhost, ?_, hopen, hdone⟩
  rw [respond_rsps, respond_rsps, hphase, hcause, hrsps]

/-- A rejection ends in FAILED, where no register can be read, and stores the same cause on both sides. -/
theorem reject_obsEq (c : Cause) : ObsEq (reject c s) (reject c t) := by
  obtain ⟨hphase, hcause, hhost, hrsps, -, -⟩ := h
  have hcauses : (reject c s).cause = (reject c t).cause := by
    rw [reject_cause, reject_cause, hphase, hcause]
  refine obsEq_of_registers_unread (by simp) (by simp) (by simp) hcauses (by simpa using hhost) ?_
  rw [reject_rsps, reject_rsps, hcauses, hrsps]

/-- The checks read PHASE, and LEN in ABSORBING only. -/
theorem ObsEq.firstFailure_eq (i : Instr) : firstFailure i s = firstFailure i t := by
  have hphase := h.phase_eq
  cases i with
  | status => rw [firstFailure_status, firstFailure_status]
  | init => rw [firstFailure_init, firstFailure_init]
  | absorb b =>
    rw [firstFailure_absorb, firstFailure_absorb, ← hphase]
    by_cases habs : s.phase = .absorbing
    · obtain ⟨-, hlen, -⟩ := h.absorbing habs
      rw [hlen]
    · rw [if_pos habs, if_pos habs]
  | final => rw [firstFailure_final, firstFailure_final, hphase]
  | read k => rw [firstFailure_read, firstFailure_read, hphase]

/-- DATA is a byte of DIGEST in DONE only, where DIGEST agrees. -/
theorem ObsEq.dataOf_eq {i : Instr} (hacc : firstFailure i s = none) : dataOf i s = dataOf i t := by
  cases i with
  | read k =>
    obtain ⟨hphase, -⟩ := (read_accepted_iff k s).1 hacc
    obtain ⟨-, -, -, -, -, hdone⟩ := h
    simp only [dataOf, digestByte, hdone hphase]
  | status | init | absorb | final => rfl

/-- ABSORB stores its byte in the first cell that was not yet observable. -/
theorem ObsEq.absorbByte_buf_eq (b : Byte) (hphase : s.phase = .absorbing) {k : Nat} (hk : k < 64)
    (hle : k ≤ pending s.len) : (absorbByte b s).buf[k] = (absorbByte b t).buf[k] := by
  obtain ⟨-, hlen, hbuf⟩ := h.absorbing hphase
  rw [absorbByte_buf_getElem b s k hk, absorbByte_buf_getElem b t k hk, ← hlen]
  split_ifs with hcell
  · rfl
  · exact hbuf k hk (by omega)

/-- The 64th byte of a block is compressed when all 64 cells agree. -/
theorem ObsEq.absorbByte_h_eq (b : Byte) (hphase : s.phase = .absorbing) :
    (absorbByte b s).h = (absorbByte b t).h := by
  obtain ⟨hh, hlen, -⟩ := h.absorbing hphase
  rw [absorbByte_h, absorbByte_h, ← hlen, hh]
  split_ifs with hlast
  · have hbuf : (absorbByte b s).buf = (absorbByte b t).buf :=
      Vector.ext fun k hk => h.absorbByte_buf_eq b hphase hk (by omega)
    rw [hbuf]
  · rfl

theorem absorbByte_obsEq (b : Byte) (hphase : s.phase = .absorbing) : ObsEq (absorbByte b s) (absorbByte b t) := by
  have hhash := h.absorbByte_h_eq b hphase
  have hbuf := fun k hk => h.absorbByte_buf_eq b hphase (k := k) hk
  obtain ⟨-, hlen, -⟩ := h.absorbing hphase
  obtain ⟨hphases, hcause, hhost, hrsps, -, -⟩ := h
  refine ⟨hphases, hcause, hhost, hrsps, fun _ => ⟨hhash, congrArg (· + 1) hlen, fun k hk => ?_⟩, fun hdone => ?_⟩
  · have hle : k < pending s.len + 1 := lt_of_lt_of_le hk (pending_succ_le s.len)
    exact hbuf k _ (Nat.le_of_lt_succ hle)
  · rw [absorbByte_phase, hphase] at hdone
    cases hdone

/-- FINAL reads H, LEN and the bytes of the unfinished block. -/
theorem ObsEq.finalHash_congr (hphase : s.phase = .absorbing) : finalHash s = finalHash t := by
  obtain ⟨hh, hlen, hbuf⟩ := h.absorbing hphase
  have htail : tail (pending s.len) s.buf.toList s.len = tail (pending s.len) t.buf.toList s.len := by
    refine tail_congr (fun j hj => ?_) s.len
    have hj64 := hj.trans (pending_lt s.len)
    simpa [hj64] using hbuf j hj64 hj
  rw [finalHash_eq, finalHash_eq, htail, hh, hlen]

theorem finish_obsEq (hphase : s.phase = .absorbing) : ObsEq (finish s) (finish t) := by
  have hhash := h.finalHash_congr hphase
  obtain ⟨-, hcause, hhost, hrsps, -, -⟩ := h
  exact ⟨rfl, hcause, hhost, hrsps, nofun, fun _ => congrArg serialize hhash⟩

/-- What an accepted command leaves cannot be told apart either. -/
theorem effectOf_obsEq {i : Instr} (hacc : firstFailure i s = none) : ObsEq (effectOf i s) (effectOf i t) := by
  cases i with
  | status | read => exact h
  | init => exact startComputation_obsEq h.host_eq h.rsps_eq
  | absorb b =>
    obtain ⟨hphase, -⟩ := (absorb_accepted_iff b s).1 hacc
    exact absorbByte_obsEq h b hphase
  | final => exact finish_obsEq h ((final_accepted_iff s).1 hacc)

theorem exec_obsEq (i : Instr) : ∃ s' t', exec i s = .next s' ∧ exec i t = .next t' ∧ ObsEq s' t' := by
  have hchecks := h.firstFailure_eq i
  cases hfail : firstFailure i s with
  | some c =>
    exact ⟨_, _, exec_of_rejected hfail, exec_of_rejected (hchecks.symm.trans hfail), reject_obsEq h c⟩
  | none =>
    refine ⟨_, _, exec_of_accepted hfail, exec_of_accepted (hchecks.symm.trans hfail), ?_⟩
    rw [h.dataOf_eq hfail]
    exact respond_obsEq (effectOf_obsEq h hfail) false _

/-- One step: both engines take the same action and give the same answer. -/
theorem step_obsEq : ∃ s' t', step s = .next s' ∧ step t = .next t' ∧ ObsEq s' t' := by
  have hhosts := h.host_eq
  cases hhost : s.host with
  | nil => exact ⟨s, t, step_of_no_action hhost, step_of_no_action (hhosts.symm.trans hhost), h⟩
  | cons a rest =>
    have hhost' := hhosts.symm.trans hhost
    have htaken := h.take_action rest
    cases a with
    | reset =>
      exact ⟨_, _, step_of_reset hhost, step_of_reset hhost', resetEngine_obsEq rfl h.rsps_eq⟩
    | command w =>
      cases hdec : decode w with
      | illegal why =>
        exact ⟨_, _, step_of_illegal hhost hdec, step_of_illegal hhost' hdec, reject_obsEq htaken .illegalCmd⟩
      | instr i =>
        rw [step_of_instr hhost hdec, step_of_instr hhost' hdec]
        exact exec_obsEq htaken i

end ObsEq

/-- Settles O32: by induction on the number of steps, from `step_obsEq`. -/
theorem unobservableStateNeverLeaks : Obligations.UnobservableStateNeverLeaks := by
  unfold Obligations.UnobservableStateNeverLeaks
  intro n
  induction n with
  | zero => exact fun s t h => ⟨s, t, rfl, rfl, h⟩
  | succ n ih =>
    intro s t h
    obtain ⟨s', t', hs, ht, h'⟩ := step_obsEq h
    rw [runSteps_succ hs, runSteps_succ ht]
    exact ih s' t' h'

/-- Settles O31: INIT is always accepted, and `startComputation` writes every register that can then be read. -/
theorem initForgetsHistory : Obligations.InitForgetsHistory := by
  unfold Obligations.InitForgetsHistory
  intro s t hhost hrsps
  exact ⟨_, _, exec_of_accepted (firstFailure_init s), exec_of_accepted (firstFailure_init t),
    respond_obsEq (startComputation_obsEq hhost hrsps) false 0x00⟩

end Sys2Proof.Machine

/-! PROOFS. Which action writes each register (spec/10_state.md R22, R28, R30, R32), a run that has gone wrong
(spec/60_exceptions.md R170, R185), and the entry point (spec/10_state.md R39). -/

namespace Sys2Proof.Machine

/-! ### Who writes H, LEN, BUF and DIGEST -/

/-- The registers that hold the computation are all as before. -/
def SameRegisters (s t : State) : Prop :=
  t.h = s.h ∧ t.len = s.len ∧ t.buf = s.buf ∧ t.digest = s.digest

/-- Inversion of `exec` by what it writes: INIT, an accepted ABSORB and an accepted FINAL write registers, and every
other command keeps them all. -/
theorem exec_writes {i : Instr} {s t : State} (h : exec i s = .next t) :
    SameRegisters s t ∨
    i = .init ∧ t = respond false 0x00 (startComputation s) ∨
    (∃ b, i = .absorb b ∧ s.phase = .absorbing ∧ s.len.toNat ≠ 2 ^ 61 - 1 ∧
      t = respond false 0x00 (absorbByte b s)) ∨
    i = .final ∧ s.phase = .absorbing ∧ t = respond false 0x00 (finish s) := by
  rcases exec_cases h with ⟨c, -, rfl⟩ | ⟨hacc, rfl⟩
  · exact .inl ⟨reject_h c s, reject_len c s, reject_buf c s, reject_digest c s⟩
  · cases i with
    | status | read => exact .inl ⟨rfl, rfl, rfl, rfl⟩
    | init => exact .inr (.inl ⟨rfl, rfl⟩)
    | absorb b =>
      obtain ⟨hphase, hlen⟩ := (absorb_accepted_iff b s).1 hacc
      exact .inr (.inr (.inl ⟨b, rfl, hphase, hlen, rfl⟩))
    | final => exact .inr (.inr (.inr ⟨rfl, (final_accepted_iff s).1 hacc, rfl⟩))

/-- The same of a step, by the host action that it takes. A reset leaves free values (R190). -/
theorem step_writes {s t : State} (h : step s = .next t) :
    SameRegisters s t ∨ ∃ a rest, s.host = a :: rest ∧
      (a = .reset ∨
        a = .command 0x0100 ∧ t = respond false 0x00 (startComputation { s with host := rest }) ∨
        (∃ b, a = .command (encode (.absorb b)) ∧ s.phase = .absorbing ∧ s.len.toNat ≠ 2 ^ 61 - 1 ∧
          t = respond false 0x00 (absorbByte b { s with host := rest })) ∨
        a = .command 0x0300 ∧ s.phase = .absorbing ∧ t = respond false 0x00 (finish { s with host := rest })) := by
  rcases step_cases h with ⟨-, rfl⟩ | ⟨rest, hhost, -⟩ | ⟨w, rest, i, hhost, hdec, hexec⟩ | ⟨w, rest, why, -, -, rfl⟩
  · exact .inl ⟨rfl, rfl, rfl, rfl⟩
  · exact .inr ⟨_, rest, hhost, .inl rfl⟩
  · obtain rfl := encode_of_decode hdec
    rcases exec_writes hexec with hsame | ⟨rfl, ht⟩ | ⟨b, rfl, hphase, hlen, ht⟩ | ⟨rfl, hphase, ht⟩
    · exact .inl hsame
    · exact .inr ⟨_, rest, hhost, .inr (.inl ⟨rfl, ht⟩)⟩
    · exact .inr ⟨_, rest, hhost, .inr (.inr (.inl ⟨b, rfl, hphase, hlen, ht⟩))⟩
    · exact .inr ⟨_, rest, hhost, .inr (.inr (.inr ⟨rfl, hphase, ht⟩))⟩
  · exact .inl ⟨reject_h .., reject_len .., reject_buf .., reject_digest ..⟩

/-- Settles O23: the writers of `step_writes`, of which ABSORB changes H on the 64th byte only. -/
theorem writersOfHashState : Obligations.WritersOfHashState := by
  unfold Obligations.WritersOfHashState
  intro s t hstep hne
  rcases step_writes hstep with ⟨hsame, -⟩ | ⟨a, rest, hhost, hwriter⟩
  · exact absurd hsame hne
  refine ⟨a, rest, hhost, ?_⟩
  rcases hwriter with hreset | ⟨hinit, rfl⟩ | ⟨b, hword, hphase, -, rfl⟩ | ⟨hfinal, hphase, rfl⟩
  · exact .inr (.inr (.inr hreset))
  · exact .inl ⟨hinit, rfl⟩
  · have hh := absorbByte_h b { s with host := rest }
    by_cases hlast : pending s.len = 63
    · exact .inr (.inl ⟨⟨b, hword⟩, hphase, hlast, hh.trans (if_pos hlast)⟩)
    · exact absurd (hh.trans (if_neg hlast)) hne
  · exact .inr (.inr (.inl ⟨hfinal, hphase, rfl⟩))

/-- Settles O24: an accepted ABSORB finds LEN below its largest value, so the addition does not wrap. -/
theorem writersOfLength : Obligations.WritersOfLength := by
  unfold Obligations.WritersOfLength
  intro s t hstep hne
  rcases step_writes hstep with ⟨-, hsame, -⟩ | ⟨a, rest, hhost, hwriter⟩
  · exact absurd hsame hne
  refine ⟨a, rest, hhost, ?_⟩
  rcases hwriter with hreset | ⟨hinit, rfl⟩ | ⟨b, hword, hphase, hlen, rfl⟩ | ⟨-, -, rfl⟩
  · exact .inr (.inr hreset)
  · exact .inl ⟨hinit, rfl⟩
  · exact .inr (.inl ⟨⟨b, hword⟩, hphase, len_succ_toNat hlen⟩)
  · exact absurd rfl hne

/-- Settles O25: of the writers only ABSORB touches BUF, and `absorbByte_buf_getElem` names its cell. -/
theorem writersOfBlockBuffer : Obligations.WritersOfBlockBuffer := by
  unfold Obligations.WritersOfBlockBuffer
  intro s t k hk hstep hne
  rcases step_writes hstep with ⟨-, -, hsame, -⟩ | ⟨a, rest, hhost, hwriter⟩
  · exact absurd (by rw [hsame]) hne
  refine ⟨a, rest, hhost, ?_⟩
  rcases hwriter with hreset | ⟨-, rfl⟩ | ⟨b, hword, hphase, -, rfl⟩ | ⟨-, -, rfl⟩
  · exact .inr hreset
  · exact absurd rfl hne
  · have hcell := absorbByte_buf_getElem b { s with host := rest } k hk
    by_cases hpending : pending s.len = k
    · exact .inl ⟨⟨b, hword, hcell.trans (if_pos hpending)⟩, hphase, hpending.symm⟩
    · exact absurd (hcell.trans (if_neg hpending)) hne
  · exact absurd rfl hne

/-- Settles O26: of the writers only FINAL touches DIGEST. -/
theorem writersOfDigest : Obligations.WritersOfDigest := by
  unfold Obligations.WritersOfDigest
  intro s t hstep hne
  rcases step_writes hstep with ⟨-, -, -, hsame⟩ | ⟨a, rest, hhost, hwriter⟩
  · exact absurd hsame hne
  refine ⟨a, rest, hhost, ?_⟩
  rcases hwriter with hreset | ⟨-, rfl⟩ | ⟨b, -, -, -, rfl⟩ | ⟨hfinal, hphase, rfl⟩
  · exact .inr hreset
  · exact absurd rfl hne
  · exact absurd rfl hne
  · exact .inl ⟨hfinal, hphase, rfl, rfl⟩

/-! ### A run that has gone wrong -/

/-- What became of `s`, still in FAILED: the cause and the digest are as stored, and `new` are the answers since, none
with a digest byte. -/
def NoDigestFrom (s t : State) (new : List PortWord) : Prop :=
  GoneWrong t ∧ t.cause = s.cause ∧ t.digest = s.digest ∧ t.rsps = s.rsps ++ new ∧
    ∀ r ∈ new, r.extractLsb' 0 8 = 0x00#8

theorem NoDigestFrom.refl {s : State} (hs : GoneWrong s) : NoDigestFrom s s [] :=
  ⟨hs, rfl, rfl, (List.append_nil _).symm, nofun⟩

theorem NoDigestFrom.goneWrong {s t : State} {new : List PortWord} (h : NoDigestFrom s t new) : GoneWrong t := by
  obtain ⟨ht, -⟩ := h
  exact ht

theorem NoDigestFrom.trans {s t u : State} {new new' : List PortWord} (hst : NoDigestFrom s t new)
    (htu : NoDigestFrom t u new') : NoDigestFrom s u (new ++ new') := by
  obtain ⟨-, hcause, hdigest, hrsps, hdata⟩ := hst
  obtain ⟨hu, hcause', hdigest', hrsps', hdata'⟩ := htu
  refine ⟨hu, hcause'.trans hcause, hdigest'.trans hdigest, ?_, List.forall_mem_append.2 ⟨hdata, hdata'⟩⟩
  rw [hrsps', hrsps, List.append_assoc]

/-- In FAILED every word but INIT's is answered without data, and writes no register. -/
theorem step_in_failed {s : State} {w : PortWord} {rest : List HostAction} (hs : s.phase = .failed)
    (hhost : s.host = .command w :: rest) (hinit : w ≠ 0x0100) :
    ∃ rej, step s =
      .next { s with host := rest, rsps := s.rsps ++ [responseWord rej s.cause .failed 0x00] } := by
  by_cases hstatus : w = 0x0000
  · refine ⟨false, (step_of_instr hhost ((decode_eq_status_iff w).2 hstatus)).trans ((exec_status _).trans ?_)⟩
    rw [respond, hs]
  · obtain ⟨c, hrej⟩ := step_rejects_in_failed hs hhost hstatus hinit
    exact ⟨true, hrej.trans (congrArg _ (reject_of_failed c (s := { s with host := rest }) hs))⟩

/-- Without INIT and reset a step from FAILED gives no digest byte. -/
theorem step_noDigestFrom {s : State} (hs : GoneWrong s) (hhost : ∀ a ∈ s.host, isRestart a = false) :
    ∃ t new, step s = .next t ∧ NoDigestFrom s t new ∧ ∀ a ∈ t.host, isRestart a = false := by
  cases htake : s.host with
  | nil => exact ⟨s, [], step_of_no_action htake, NoDigestFrom.refl hs, hhost⟩
  | cons a rest =>
    rw [htake, List.forall_mem_cons] at hhost
    obtain ⟨ha, hrest⟩ := hhost
    cases a with
    | reset => cases ha
    | command w =>
      have hinit : w ≠ 0x0100 := of_decide_eq_false ha
      obtain ⟨rej, hstep⟩ := step_in_failed hs htake hinit
      exact ⟨_, [_], hstep, ⟨hs, rfl, rfl, rfl, List.forall_mem_singleton.2 (responseWord_dataField ..)⟩, hrest⟩

/-- Settles O20: by induction on the number of steps, from `step_noDigestFrom`. -/
theorem failedRunGivesNoDigest : Obligations.FailedRunGivesNoDigest := by
  unfold Obligations.FailedRunGivesNoDigest
  intro n
  induction n with
  | zero => exact fun s hs _ => ⟨s, [], rfl, NoDigestFrom.refl hs⟩
  | succ n ih =>
    intro s hs hhost
    obtain ⟨t, new, hstep, hst, hhost'⟩ := step_noDigestFrom hs hhost
    obtain ⟨u, new', hrun, htu⟩ := ih t hst.goneWrong hhost'
    exact ⟨u, new ++ new', (runSteps_succ hstep).trans hrun, hst.trans htu⟩

/-! ### The entry point -/

/-- Settles O29: in IDLE the phase check rejects ABSORB, FINAL and READ, and STATUS and INIT have no check. -/
theorem resetEntryPoint : Obligations.ResetEntryPoint := by
  unfold Obligations.ResetEntryPoint
  refine ⟨rfl, rfl, fun s hidle => ?_⟩
  have hclosed : s.phase ≠ .absorbing := by simp [hidle]
  have hempty : s.phase ≠ .done := by simp [hidle]
  exact ⟨⟨_, _, exec_status s, respond_rsps .., responseWord_rejBit ..⟩,
    ⟨_, _, exec_of_accepted (firstFailure_init s), respond_effectOf_rsps .., responseWord_rejBit ..⟩,
    fun b => exec_absorb_badPhase b hclosed, exec_final_badPhase hclosed, fun i => exec_read_badPhase i hempty,
    congrArg _ (reject_eq .illegalCmd s)⟩

end Sys2Proof.Machine

/-! PROOFS. Words and bytes (spec/00_scope.md R10, spec/20_memory.md section 2, R134), the mixing functions rewritten
(spec/42_rounds.md R122), and the rounds taken backwards and forwards (R120, R121). -/

namespace Sys2Proof.Machine

/-! ### Words and their bytes -/

theorem be64_getElem (l : U64) {k : Nat} (hk : k < 8) : (be64 l)[k] = l.extractLsb' (56 - 8 * k) 8 := by
  match k, hk with
  | 0, _ | 1, _ | 2, _ | 3, _ | 4, _ | 5, _ | 6, _ | 7, _ => rfl

/-- A byte of a word as a number. -/
theorem byte_toNat {n : Nat} (x : BitVec n) (start : Nat) :
    (x.extractLsb' start 8).toNat = x.toNat / 2 ^ start % 256 :=
  (field_toNat x start 8).symm

/-- The bytes of a word, put together again (R10). -/
theorem wordBe_be32 (x : Word) : wordBe (be32 x)[0] (be32 x)[1] (be32 x)[2] (be32 x)[3] = x := by
  have hlt : x.toNat < 2 ^ 32 := x.isLt
  apply BitVec.eq_of_toNat_eq
  simp only [wordBe_toNat, be32_getElem, byte_toNat]
  omega

/-- Byte k of a word put together from four bytes is the k-th of them (R10). -/
theorem be32_wordBe (b0 b1 b2 b3 : Byte) : be32 (wordBe b0 b1 b2 b3) = #v[b0, b1, b2, b3] := by
  have hbytes : b0.toNat < 256 ∧ b1.toNat < 256 ∧ b2.toNat < 256 ∧ b3.toNat < 256 :=
    ⟨b0.isLt, b1.isLt, b2.isLt, b3.isLt⟩
  have hval := wordBe_toNat b0 b1 b2 b3
  apply Vector.ext
  intro k hk
  apply BitVec.eq_of_toNat_eq
  rw [be32_getElem _ hk, byte_toNat, hval]
  match k, hk with
  | 0, _ | 1, _ | 2, _ | 3, _ => simp; omega

/-- Settles O34: the bytes by their positions, and the two inverse laws. -/
theorem bigEndianConversions : Obligations.BigEndianConversions := by
  unfold Obligations.BigEndianConversions
  refine ⟨fun x k hk => ?_, fun l k hk => ?_, wordBe_toNat, wordBe_be32, be32_wordBe⟩
  · rw [be32_getElem x hk, byte_toNat]
  · rw [be64_getElem l hk, byte_toNat]

/-! ### Serialization -/

/-- Byte i of the digest comes out of word i div 4 (R134). -/
theorem serialize_getElem_div_mod (H : HashState) {i : Nat} (hi : i < 20) :
    (serialize H)[i] = (be32 H[i / 4])[i % 4] := by
  have hbytes := serialize_getElem H (q := i / 4) (r := i % 4) (by omega) (by omega)
  simpa only [Nat.div_add_mod] using hbytes

theorem deserialize_getElem (D : DigestBytes) {j : Nat} (hj : j < 5) :
    (deserialize D)[j] = wordBe D[4 * j] D[4 * j + 1] D[4 * j + 2] D[4 * j + 3] := by
  simp [deserialize]

theorem deserialize_serialize (H : HashState) : deserialize (serialize H) = H := by
  apply Vector.ext
  intro j hj
  have hbyte : ∀ r (hr : r < 4), (serialize H)[4 * j + r] = (be32 H[j])[r] := fun r hr => serialize_getElem H hj hr
  have hfirst : (serialize H)[4 * j] = (be32 H[j])[0] := hbyte 0 (by decide)
  rw [deserialize_getElem _ hj, hfirst, hbyte 1 (by decide), hbyte 2 (by decide), hbyte 3 (by decide), wordBe_be32]

theorem serialize_deserialize (D : DigestBytes) : serialize (deserialize D) = D := by
  apply Vector.ext
  intro i hi
  obtain ⟨q, r, hq, hr, rfl⟩ : ∃ q r, q < 5 ∧ r < 4 ∧ i = 4 * q + r := ⟨i / 4, i % 4, by omega, by omega, by omega⟩
  rw [serialize_getElem _ hq hr, deserialize_getElem D hq]
  simp only [be32_wordBe]
  match r, hr with
  | 0, _ | 1, _ | 2, _ | 3, _ => rfl

/-- Settles O35: the index map, and the two inverse laws word by word and byte by byte. -/
theorem serializeIndexMap : Obligations.SerializeIndexMap := by
  unfold Obligations.SerializeIndexMap
  refine ⟨fun H i hi => ?_, deserialize_serialize, serialize_deserialize⟩
  rw [serialize_getElem_div_mod H hi, be32_getElem _ (Nat.mod_lt i (by decide))]

/-! ### The mixing functions rewritten -/

section Bits
variable (b c d : Word)

theorem choice_eq_xor : choice b c d = d ^^^ (b &&& (c ^^^ d)) := by
  have hbool : ∀ x y z : Bool, (x && y || !x && z) = (z ^^ (x && (y ^^ z))) := by decide
  ext k hk
  simp only [choice, BitVec.getElem_or, BitVec.getElem_and, BitVec.getElem_not, BitVec.getElem_xor, hbool]

theorem majority_eq_or : majority b c d = (b &&& c) ||| (d &&& (b ||| c)) := by
  have hbool : ∀ x y z : Bool, (x && y || x && z || y && z) = (x && y || z && (x || y)) := by decide
  ext k hk
  simp only [majority, BitVec.getElem_or, BitVec.getElem_and, hbool]

theorem majority_eq_xor : majority b c d = (b &&& c) ^^^ (b &&& d) ^^^ (c &&& d) := by
  have hbool : ∀ x y z : Bool, (x && y || x && z || y && z) = (x && y ^^ x && z ^^ y && z) := by decide
  ext k hk
  simp only [majority, BitVec.getElem_or, BitVec.getElem_and, BitVec.getElem_xor, hbool]

theorem majority_swap_left : majority b c d = majority c b d := by
  simp only [majority, BitVec.and_comm c b, BitVec.or_assoc, BitVec.or_comm (c &&& d)]

theorem majority_swap_right : majority b c d = majority b d c := by
  simp only [majority, BitVec.and_comm d c, BitVec.or_comm (b &&& d)]

end Bits

/-- Settles O47: the rounds named use choice and majority, whose identities hold bit by bit. -/
theorem mixingFunctionsRewritten : Obligations.MixingFunctionsRewritten := by
  unfold Obligations.MixingFunctionsRewritten
  refine fun t b c d => ⟨fun h => ?_, fun hlow hhigh => ?_⟩
  · rw [mix_eq_choice b c d h, choice_eq_xor]
  · simp only [mix_eq_majority _ _ _ hlow hhigh]
    exact ⟨majority_eq_or b c d, majority_eq_xor b c d, majority_swap_left b c d, majority_swap_right b c d⟩

/-! ### Rounds -/

/-- Rotations add up; by 32 places altogether they are the identity. -/
theorem rotl_rotl_of_add_eq {m n : Nat} (hm : 0 < m) (hn : 0 < n) (hsum : m + n = 32) (x : Word) :
    rotl (rotl x m) n = x := by
  refine BitVec.eq_of_getLsbD_eq fun i hi => ?_
  have hback : ((i + m) % 32 + n) % 32 = i := by omega
  have hmid : (i + m) % 32 < 32 := Nat.mod_lt _ (by decide)
  have houter := getLsbD_rotl (rotl x m) (n := n) (by omega) hmid
  rw [hback, getLsbD_rotl x (by omega) hi] at houter
  exact houter

/-- The inverse of a round that R121 gives. -/
def roundBack (t : Fin 80) (w : Word) (s : Working) : Working :=
  ⟨s.b, rotl s.c 2, s.d, s.e, s.a - rotl s.b 5 - mix t (rotl s.c 2) s.d s.e - roundConstant t - w⟩

/-- `temp` is a sum, so the terms other than e can be taken off again. -/
theorem roundTemp_sub (t : Fin 80) (s : Working) (w : Word) :
    roundTemp t s w - rotl s.a 5 - mix t s.b s.c s.d - roundConstant t - w = s.e := by
  rw [roundTemp]
  ring

theorem roundBack_roundStep (t : Fin 80) (w : Word) (s : Working) : roundBack t w (roundStep t s w) = s := by
  have hc : rotl (rotl s.b 30) 2 = s.b := rotl_rotl_of_add_eq (by decide) (by decide) (by decide) s.b
  simp only [roundBack, roundStep_a, roundStep_b, roundStep_c, roundStep_d, roundStep_e, hc, roundTemp_sub]

theorem roundStep_roundBack (t : Fin 80) (w : Word) (s : Working) : roundStep t (roundBack t w s) w = s := by
  have hc : rotl (rotl s.c 2) 30 = s.c := rotl_rotl_of_add_eq (by decide) (by decide) (by decide) s.c
  have ha : roundTemp t (roundBack t w s) w = s.a := by
    simp only [roundTemp, roundBack]
    ring
  rw [roundStep, ha]
  simp only [roundBack, hc]

/-- Settles O50: `roundBack` is the inverse on both sides. -/
theorem roundIsInvertible : Obligations.RoundIsInvertible := by
  unfold Obligations.RoundIsInvertible
  refine fun t w => ⟨Function.bijective_iff_has_inverse.2 ⟨roundBack t w, roundBack_roundStep t w,
    roundStep_roundBack t w⟩, ?_⟩
  rintro s _ rfl
  exact (roundBack_roundStep t w s).symm

/-- Settles O52: each round moves the word on, by one lemma per working variable. -/
theorem wordFlowsThroughRounds : Obligations.WordFlowsThroughRounds := by
  unfold Obligations.WordFlowsThroughRounds
  intro s W t h temp
  have hb : (roundsUpTo s W (t + 2) (by omega)).b = temp := by rw [roundsUpTo_succ, roundStep_b]
  have hc : (roundsUpTo s W (t + 3) (by omega)).c = rotl temp 30 := by rw [roundsUpTo_succ, roundStep_c, hb]
  have hd : (roundsUpTo s W (t + 4) (by omega)).d = rotl temp 30 := by rw [roundsUpTo_succ, roundStep_d, hc]
  have he : (roundsUpTo s W (t + 5) h).e = rotl temp 30 := by rw [roundsUpTo_succ, roundStep_e, hd]
  exact ⟨hb, hc, hd, he⟩

end Sys2Proof.Machine

/-! PROOFS. The expansion of the message schedule (spec/41_block_schedule.md R102, R105): the recurrence, its linearity
over XOR, and the schedules of the all-zero and the all-ones block. -/

namespace Sys2Proof.Machine

/-! ### The recurrence -/

/-- The expansion only appends: a word that is there stays. -/
theorem expand_getElem_of_le (B : Block) {n m j : Nat} (hnm : n ≤ m) (hj : j < 16 + n) :
    (expand B m)[j] = (expand B n)[j] := by
  induction hnm with
  | refl => rfl
  | @step m hnm ih =>
    have hj' : j < 16 + m := Nat.lt_of_lt_of_le hj (Nat.add_le_add_left hnm 16)
    exact (expand_succ_getElem B m j hj').trans ih

theorem schedule_getElem_eq_expand (B : Block) {n j : Nat} (hn : n ≤ 64) (hj : j < 16 + n) :
    (schedule B)[j] = (expand B n)[j] :=
  expand_getElem_of_le B hn hj

/-- The word that one step of the expansion appends. -/
theorem expand_succ_last (B : Block) (n : Nat) : (expand B (n + 1))[16 + n] =
    rotl ((expand B n)[16 + n - 3] ^^^ (expand B n)[16 + n - 8] ^^^ (expand B n)[16 + n - 14] ^^^
      (expand B n)[16 + n - 16]) 1 := by
  simp only [expand]
  rw [Vector.getElem_push_eq]

theorem schedule_recurrence (B : Block) {i : Nat} (hlow : 16 ≤ i) (hi : i < 80) : (schedule B)[i] =
    rotl ((schedule B)[i - 3] ^^^ (schedule B)[i - 8] ^^^ (schedule B)[i - 14] ^^^ (schedule B)[i - 16]) 1 := by
  obtain ⟨n, rfl⟩ := Nat.exists_eq_add_of_le hlow
  have hearlier : ∀ j (hj : j < 16 + n), (schedule B)[j] = (expand B n)[j] :=
    fun j hj => schedule_getElem_eq_expand B (by omega) hj
  rw [schedule_getElem_eq_expand B (n := n + 1) (by omega) (by omega), expand_succ_last,
    hearlier (16 + n - 3) (by omega), hearlier (16 + n - 8) (by omega), hearlier (16 + n - 14) (by omega),
    hearlier (16 + n - 16) (by omega)]

/-- Induction along the schedule: the words of the block, then each word from the four that R102 names. -/
theorem schedule_induction {motive : (i : Nat) → i < 80 → Prop} (hblock : ∀ i (hi : i < 16), motive i (by omega))
    (hstep : ∀ i (hlow : 16 ≤ i) (hi : i < 80), motive (i - 3) (by omega) → motive (i - 8) (by omega) →
      motive (i - 14) (by omega) → motive (i - 16) (by omega) → motive i hi) (i : Nat) (hi : i < 80) : motive i hi := by
  induction i using Nat.strong_induction_on with
  | _ i ih =>
    rcases Nat.lt_or_ge i 16 with hlt | hlow
    · exact hblock i hlt
    · exact hstep i hlow hi (ih _ (by omega) _) (ih _ (by omega) _) (ih _ (by omega) _) (ih _ (by omega) _)

/-! ### Linearity -/

/-- A rotation only moves bits. -/
theorem rotl_xor (x y : Word) {n : Nat} (hn : n < 32) : rotl (x ^^^ y) n = rotl x n ^^^ rotl y n := by
  simp only [rotl_eq_rotateLeft _ hn]
  ext k hk
  simp only [BitVec.getElem_xor, BitVec.getElem_rotateLeft]
  split_ifs <;> rfl

theorem wordBe_xor (a b c d a' b' c' d' : Byte) :
    wordBe (a ^^^ a') (b ^^^ b') (c ^^^ c') (d ^^^ d') = wordBe a b c d ^^^ wordBe a' b' c' d' := by
  rw [wordBe, ← BitVec.xor_append, ← BitVec.xor_append, ← BitVec.xor_append]
  rfl

theorem blockWord_zipWith_xor (B B' : Block) (j : Fin 16) :
    blockWord (Vector.zipWith (· ^^^ ·) B B') j = blockWord B j ^^^ blockWord B' j := by
  simp only [blockWord, Vector.getElem_zipWith, wordBe_xor]

/-- The four pairs of the recurrence, sorted by block. -/
theorem xor_pairs_sort (a b c d a' b' c' d' : Word) :
    (a ^^^ a') ^^^ (b ^^^ b') ^^^ (c ^^^ c') ^^^ (d ^^^ d') =
      (a ^^^ b ^^^ c ^^^ d) ^^^ (a' ^^^ b' ^^^ c' ^^^ d') := by
  ac_rfl

theorem schedule_zipWith_xor (B B' : Block) (i : Nat) (hi : i < 80) :
    (schedule (Vector.zipWith (· ^^^ ·) B B'))[i] = (schedule B)[i] ^^^ (schedule B')[i] := by
  induction i, hi using schedule_induction with
  | hblock i hi =>
    rw [schedule_getElem_of_lt _ hi, schedule_getElem_of_lt _ hi, schedule_getElem_of_lt _ hi, blockWord_zipWith_xor]
  | hstep i hlow hi h3 h8 h14 h16 =>
    rw [schedule_recurrence _ hlow hi, schedule_recurrence B hlow hi, schedule_recurrence B' hlow hi, h3, h8, h14, h16,
      xor_pairs_sort, rotl_xor _ _ (by decide)]

/-- Settles O45: `schedule_zipWith_xor`. -/
theorem scheduleIsLinear : Obligations.ScheduleIsLinear := by
  unfold Obligations.ScheduleIsLinear
  exact schedule_zipWith_xor

/-! ### The all-zero and the all-ones block -/

/-- The all-zero block is the XOR of itself with itself, so by linearity each word is that of itself with itself. -/
theorem schedule_zero_block (i : Nat) (hi : i < 80) : (schedule (Vector.replicate 64 0x00))[i] = 0 := by
  have hself : Vector.zipWith (· ^^^ ·) (Vector.replicate 64 (0x00 : Byte)) (Vector.replicate 64 0x00) =
      Vector.replicate 64 0x00 := by
    rw [Vector.zipWith_replicate]
    exact congrArg (Vector.replicate 64) BitVec.xor_self
  have hlinear := schedule_zipWith_xor (Vector.replicate 64 0x00) (Vector.replicate 64 0x00) i hi
  rw [BitVec.xor_self, hself] at hlinear
  exact hlinear

/-- The word of which all bits are `b`. -/
def fillWord (b : Bool) : Word := if b then 0xFFFFFFFF else 0

theorem fillWord_xor (b c : Bool) : fillWord b ^^^ fillWord c = fillWord (b ^^ c) := by
  cases b <;> cases c <;> decide

theorem rotl_fillWord (b : Bool) : rotl (fillWord b) 1 = fillWord b := by
  cases b <;> decide

/-- Where the schedule of the all-ones block is all ones: in the block, and at R102's list of indices. -/
def allOnesAt (i : Nat) : Bool :=
  decide (i < 16) || decide (i ∈ [19, 20, 21, 24, 28, 29, 30, 34, 37, 43, 48, 50, 51, 54, 56, 58, 59, 61, 62, 68, 69,
    70, 71, 72, 75, 78, 79])

/-- R102's list obeys the recurrence. -/
theorem allOnesAt_recurrence : ∀ i, i < 80 → 16 ≤ i →
    (allOnesAt (i - 3) ^^ allOnesAt (i - 8) ^^ allOnesAt (i - 14) ^^ allOnesAt (i - 16)) = allOnesAt i := by
  decide

theorem schedule_ones_block (i : Nat) (hi : i < 80) :
    (schedule (Vector.replicate 64 0xFF))[i] = fillWord (allOnesAt i) := by
  induction i, hi using schedule_induction with
  | hblock i hi =>
    rw [schedule_getElem_of_lt _ hi]
    simp [blockWord, wordBe, fillWord, allOnesAt, hi]
  | hstep i hlow hi h3 h8 h14 h16 =>
    rw [schedule_recurrence _ hlow hi, h3, h8, h14, h16, fillWord_xor, fillWord_xor, fillWord_xor, rotl_fillWord,
      allOnesAt_recurrence i hi hlow]

/-- Settles O44: behind the block `allOnesAt` is R102's list. -/
theorem allOnesScheduleIndices : Obligations.AllOnesScheduleIndices := by
  unfold Obligations.AllOnesScheduleIndices
  intro i hlow hi
  have hblock : ¬ i < 16 := Nat.not_lt.2 hlow
  rw [schedule_ones_block i hi]
  simp only [fillWord, allOnesAt, hblock, decide_false, Bool.false_or, decide_eq_true_eq]

/-- Settles O43: the recurrence, and the two corner cases. -/
theorem scheduleExpansion : Obligations.ScheduleExpansion := by
  unfold Obligations.ScheduleExpansion
  refine ⟨fun B i hlow hi => schedule_recurrence B hlow hi, schedule_zero_block, fun i hlow hhigh => ?_, ?_,
    fun i hlow hi => ?_⟩
  · rw [schedule_ones_block]
    have hzero : allOnesAt i = false := by
      interval_cases i <;> rfl
    rw [hzero]
    rfl
  · exact schedule_ones_block 19 (by decide)
  · rw [schedule_ones_block]
    cases allOnesAt i with
    | false => exact .inl rfl
    | true => exact .inr rfl

end Sys2Proof.Machine

/-! PROOFS. The padded message in blocks (spec/40_padding.md R92 to R96) and the chaining over blocks
(spec/43_accumulate_serialize.md R133, R140). -/

namespace Sys2Proof.Machine

/-! ### Blocks of a sequence -/

theorem blockAt_append_left {P : List Byte} {off : Nat} (hoff : off + 64 ≤ P.length) (Q : List Byte) :
    blockAt (P ++ Q) off = blockAt P off := by
  apply Vector.ext
  intro k hk
  rw [blockAt_getElem _ _ k hk, blockAt_getElem _ _ k hk, List.getD_append _ _ _ _ (by omega)]

theorem blockAt_append_right (P Q : List Byte) (off : Nat) : blockAt (P ++ Q) (P.length + off) = blockAt Q off := by
  apply Vector.ext
  intro k hk
  rw [blockAt_getElem _ _ k hk, blockAt_getElem _ _ k hk, Nat.add_assoc, List.getD_append_right _ _ _ _ (by omega),
    Nat.add_sub_cancel_left]

theorem blockAt_toList (B : Block) : blockAt B.toList 0 = B := by
  apply Vector.ext
  intro k hk
  simp [hk]

theorem blocks_getElem? {P : List Byte} {q : Nat} (hq : q < P.length / 64) :
    (blocks P)[q]? = some (blockAt P (64 * q)) := by
  have hin : q < (blocks P).length := by rwa [blocks_length]
  rw [List.getElem?_eq_getElem hin, blocks_getElem P hin]

theorem blocks_of_length_eq {P : List Byte} {q : Nat} (hlen : P.length = 64 * q) :
    blocks P = (List.range q).map fun i => blockAt P (64 * i) := by
  rw [blocks, hlen, Nat.mul_div_cancel_left q (by decide)]

/-- A sequence of whole blocks is cut at its end, so what follows is cut as it would be alone. -/
theorem blocks_append {P : List Byte} (hP : P.length % 64 = 0) (Q : List Byte) :
    blocks (P ++ Q) = blocks P ++ blocks Q := by
  have hcount : (P ++ Q).length / 64 = P.length / 64 + Q.length / 64 := by
    rw [List.length_append]
    omega
  rw [blocks, hcount, List.range_add, List.map_append, List.map_map]
  refine congrArg₂ (· ++ ·) (List.map_congr_left fun i hi => ?_) (List.map_congr_left fun i _ => ?_)
  · have hi' := List.mem_range.1 hi
    exact blockAt_append_left (by omega) Q
  · have hoff : 64 * (P.length / 64 + i) = P.length + 64 * i := by omega
    rw [Function.comp_apply, hoff, blockAt_append_right]

/-! ### Chaining -/

theorem chainFrom_nil (H : HashState) : chainFrom H [] = H := rfl

theorem chainFrom_append (H : HashState) {P : List Byte} (hP : P.length % 64 = 0) (Q : List Byte) :
    chainFrom H (P ++ Q) = chainFrom (chainFrom H P) Q := by
  rw [chainFrom, blocks_append hP, List.foldl_append]
  rfl

theorem chain_append {P : List Byte} (hP : P.length % 64 = 0) (Q : List Byte) :
    chain (P ++ Q) = chainFrom (chain P) Q :=
  chainFrom_append initialHash hP Q

theorem chainFrom_one_block (H : HashState) {P : List Byte} (hlen : P.length = 64) :
    chainFrom H P = compress H (blockAt P 0) := by
  rw [chainFrom, blocks_of_length_eq (q := 1) hlen]
  rfl

theorem chainFrom_two_blocks (H : HashState) {P : List Byte} (hlen : P.length = 128) :
    chainFrom H P = compress (compress H (blockAt P 0)) (blockAt P 64) := by
  rw [chainFrom, blocks_of_length_eq (q := 2) hlen]
  rfl

theorem chainFrom_toList (H : HashState) (B : Block) : chainFrom H B.toList = compress H B := by
  rw [chainFrom_one_block H B.length_toList, blockAt_toList]

/-- Settles O54: no block, one block, `chainFrom_append`, and IV as it stands. -/
theorem chainingComposes : Obligations.ChainingComposes := by
  unfold Obligations.ChainingComposes
  exact ⟨chainFrom_nil, chainFrom_toList, fun H _ Q hP _ => chainFrom_append H hP Q, fun _ => rfl⟩

/-! ### How many blocks a padded message has -/

theorem pad_length_eq_blockCount (m : Message) : (pad m).length = 64 * blockCount m.bytes.length := by
  rw [pad_length, blockCount]
  rcases zpad_cases m.bytes.length with ⟨h, hz⟩ | ⟨h, hz⟩ <;> omega

theorem pad_length_mod (m : Message) : (pad m).length % 64 = 0 := by
  rw [pad_length_eq_blockCount, Nat.mul_mod_right]

/-- The padded length is below the next multiple of 64, because fewer than 64 zeros are put in. -/
theorem pad_length_le {m : Message} {k : Nat} (hk : k % 64 = 0) (hfits : m.bytes.length + 9 ≤ k) :
    (pad m).length ≤ k := by
  have hzeros := zpad_lt m.bytes.length
  have hmod := pad_length_mod m
  rw [pad_length] at *
  omega

theorem blockCount_eq (n : Nat) : blockCount n = n / 64 + if n % 64 ≤ 55 then 1 else 2 := by
  unfold blockCount
  split_ifs <;> omega

/-- A block that the message fills holds message bytes alone. -/
theorem blocks_pad_getElem? (m : Message) {q : Nat} (hq : q < m.bytes.length / 64) :
    (blocks (pad m))[q]? = some (blockAt m.bytes (64 * q)) := by
  have hlen := pad_length m
  rw [blocks_getElem? (by omega), pad, blockAt_append_left (by omega)]

/-- Settles O38: the padded length is a multiple of 64 by the choice of Zpad, and the least by its bound. -/
theorem paddedBlockCount : Obligations.PaddedBlockCount := by
  unfold Obligations.PaddedBlockCount
  refine fun m => ⟨pad_length_mod m, ?_, fun _ => pad_length_le, ?_, blockCount_eq _, fun _ => blocks_pad_getElem? m⟩
  · rw [pad_length]
    exact Nat.le_add_right _ _
  · rw [blocks_length, pad_length_eq_blockCount, Nat.mul_div_cancel_left _ (by decide)]

/-! ### The padding of equal lengths, and the lengths of equal paddings -/

theorem pad_drop (m : Message) : (pad m).drop m.bytes.length = padding m.len :=
  List.drop_left

theorem len_eq_of_toNat {m : Message} {n : Len61} (hn : n.toNat = m.bytes.length) : n = m.len :=
  BitVec.eq_of_toNat_eq (hn.trans m.len_toNat.symm)

theorem be64_injective : Function.Injective be64 := by
  intro l l' h
  apply BitVec.eq_of_toNat_eq
  rw [← be64_value, ← be64_value, h]

theorem bitLength_injective : Function.Injective bitLength := by
  intro n n' h
  have hval := congrArg BitVec.toNat h
  rw [bitLength_toNat, bitLength_toNat] at hval
  exact BitVec.eq_of_toNat_eq (Nat.eq_of_mul_eq_mul_right (by decide) hval)

/-- The last eight bytes of a padded message are its length field. -/
theorem pad_drop_length_sub (m : Message) : (pad m).drop ((pad m).length - 8) = (be64 (bitLength m.len)).toList := by
  have hlen : (pad m).length - 8 = m.bytes.length + 1 + zpad m.bytes.length := by
    rw [pad_length]
    omega
  rw [hlen, pad_drop_zeros]

/-- The length field gives the length, and the length says how many of the bytes are the message. -/
theorem pad_injective : Function.Injective pad := by
  intro m m' h
  have hfield : (be64 (bitLength m.len)).toList = (be64 (bitLength m'.len)).toList := by
    rw [← pad_drop_length_sub, ← pad_drop_length_sub, h]
  have hlen : m.len = m'.len := bitLength_injective (be64_injective (Vector.toList_inj.1 hfield))
  have hbytes : m.bytes = m'.bytes := by
    rw [← pad_take m, ← pad_take m', h, ← m.len_toNat, ← m'.len_toNat, hlen]
  cases m
  cases m'
  cases hbytes
  rfl

/-- Settles O39: behind the message stands `padding` of its length. -/
theorem padIsInjective : Obligations.PadIsInjective := by
  unfold Obligations.PadIsInjective
  refine ⟨fun m m' hlen => ?_, pad_take, fun _ _ h => pad_injective h⟩
  have hlen61 : m.len = m'.len := len_eq_of_toNat (m.len_toNat.trans hlen)
  rw [pad_drop, pad_drop, hlen61]

/-! ### The tail -/

/-- What `Tail` appends to the bytes of the unfinished block is the padding of the whole message. -/
theorem tail_eq_take_append_padding (buf : List Byte) (n : Len61) :
    tail (n.toNat % 64) buf n = buf.take (n.toNat % 64) ++ padding n := by
  simp only [tail, padding, zpad, List.append_assoc]

/-- The unfinished block itself will do for BUF. -/
theorem pad_eq_take_append_tail_drop (m : Message) : pad m = m.bytes.take (64 * (m.bytes.length / 64)) ++
    tail (m.bytes.length % 64) (m.bytes.drop (64 * (m.bytes.length / 64))) m.len := by
  have htake : (m.bytes.drop (64 * (m.bytes.length / 64))).take (m.bytes.length % 64) =
      m.bytes.drop (64 * (m.bytes.length / 64)) := by
    apply List.take_of_length_le
    rw [List.length_drop]
    omega
  rw [← m.len_toNat, tail_eq_take_append_padding, m.len_toNat, htake, ← List.append_assoc, List.take_append_drop, pad]

theorem pad_eq_take_append_tail {m : Message} {buf : List Byte} {n : Len61} (hn : n.toNat = m.bytes.length)
    (hbuf : ∀ j, j < m.bytes.length % 64 → buf[j]? = m.bytes[64 * (m.bytes.length / 64) + j]?) :
    pad m = m.bytes.take (64 * (m.bytes.length / 64)) ++ tail (m.bytes.length % 64) buf n := by
  obtain rfl := len_eq_of_toNat hn
  rw [pad_eq_take_append_tail_drop]
  refine congrArg _ (tail_congr (fun j hj => ?_) _)
  rw [List.getElem?_drop, hbuf j hj]

theorem tail_length_eq {r : Nat} {buf : List Byte} (hr : r < 64) (hbuf : r ≤ buf.length) (n : Len61) :
    (tail r buf n).length = if r ≤ 55 then 64 else 128 := by
  rw [tail_length r buf hbuf]
  split_ifs <;> omega

/-- Settles O40: with any buffer that agrees on the first r bytes, and the lengths of the two tails. -/
theorem tailCompletesPad : Obligations.TailCompletesPad := by
  unfold Obligations.TailCompletesPad
  exact ⟨fun _ _ _ => pad_eq_take_append_tail, pad_eq_take_append_tail_drop,
    fun _ _ n hr hbuf _ => tail_length_eq hr hbuf n⟩

/-! ### Length extension -/

/-- Settles O58: the padded message is whole blocks, so the chaining over the longer message goes on from its hash. -/
theorem lengthExtensionStructure : Obligations.LengthExtensionStructure := by
  unfold Obligations.LengthExtensionStructure
  intro m m' x hbytes
  have hpad : pad m' = pad m ++ (x ++ padding m'.len) := by
    rw [pad, hbytes, pad, List.append_assoc, List.append_assoc]
  have hchain : chain (pad m') = chainFrom (chain (pad m)) (x ++ padding m'.len) := by
    rw [hpad, chain_append (pad_length_mod m)]
  constructor
  · rw [hchain, hpad, List.drop_left]
  · rw [digestOf, hchain, digestOf, deserialize_serialize]

end Sys2Proof.Machine

/-! PROOFS. The commands compute the document's function (spec/45_commands.md R158, R159, R162): INIT, the ABSORBs of a
message and FINAL leave its digest. -/

namespace Sys2Proof.Machine

/-! ### The bytes absorbed so far -/

/-- The whole blocks at the front of a message. -/
theorem take_whole_blocks_length_mod (m : List Byte) : (m.take (64 * (m.length / 64))).length % 64 = 0 := by
  rw [List.length_take, Nat.min_eq_left (Nat.mul_div_le ..), Nat.mul_mod_right]

section Absorbed
variable {m : List Byte} {s : State}

/-- INIT opens the empty message: H is IV, and no cell of BUF counts. -/
theorem absorbed_startComputation (s : State) : Absorbed [] (startComputation s) :=
  ⟨rfl, rfl, rfl, rfl, fun j hj => absurd hj (by simp)⟩

/-- Where the next byte goes: behind those of the unfinished block. -/
theorem Absorbed.pending_eq (h : Absorbed m s) : pending s.len = m.length % 64 := by
  obtain ⟨-, -, hlen, -, -⟩ := h
  rw [pending, hlen]

/-- BUF up to the cell that an ABSORB has just written holds the unfinished block of the longer message. -/
theorem Absorbed.absorbByte_buf (h : Absorbed m s) (b : Byte) {j : Nat} (hj : j < 64) (hle : j ≤ m.length % 64) :
    (absorbByte b s).buf[j] = (m ++ [b])[64 * (m.length / 64) + j]'(by simp; omega) := by
  have hcell := absorbByte_buf_getElem b s j hj
  rw [h.pending_eq] at hcell
  obtain ⟨-, -, -, -, hbuf⟩ := h
  rw [hcell]
  split_ifs with hlast
  · subst hlast
    simp only [Nat.div_add_mod, List.getElem_concat_length]
  · rw [List.getElem_append_left (by omega)]
    exact hbuf j (by omega)

/-- The 64th byte of a block: BUF holds the whole of it, and its compression is one more step of the chaining. -/
theorem Absorbed.absorbByte_block (h : Absorbed m s) (b : Byte) (hlast : m.length % 64 = 63) :
    (absorbByte b s).h = chain (m ++ [b]) := by
  have hblock : (absorbByte b s).buf.toList = (m ++ [b]).drop (64 * (m.length / 64)) := by
    refine List.ext_getElem ?_ fun j hj _ => ?_
    · simp
      omega
    · have hj64 : j < 64 := by simpa using hj
      rw [Vector.getElem_toList, List.getElem_drop]
      exact h.absorbByte_buf b hj64 (by omega)
  have hpending : pending s.len = 63 := h.pending_eq.trans hlast
  have hfront : m.take (64 * (m.length / 64)) = (m ++ [b]).take (64 * (m.length / 64)) :=
    (List.take_append_of_le_length (Nat.mul_div_le ..)).symm
  obtain ⟨-, -, -, hh, -⟩ := h
  rw [absorbByte_h, if_pos hpending, hh, ← chainFrom_toList, hblock, ← chain_append (take_whole_blocks_length_mod m),
    hfront, List.take_append_drop]

/-- An accepted ABSORB extends the message by its byte (R159). -/
theorem Absorbed.absorbByte (h : Absorbed m s) (b : Byte) (hlen : m.length < 2 ^ 61 - 1) :
    Absorbed (m ++ [b]) (absorbByte b s) := by
  have hcells := fun j hj => h.absorbByte_buf b (j := j) hj
  have hblock := h.absorbByte_block b
  have hpending := h.pending_eq
  obtain ⟨hphase, hcause, hs, hh, -⟩ := h
  have hcount : (m ++ [b]).length = m.length + 1 := List.length_append
  refine ⟨hphase, hcause, ?_, ?_, fun j hj => ?_⟩
  · rw [absorbByte_len, len_succ_toNat (by omega), hs, hcount]
  · by_cases hlast : m.length % 64 = 63
    · have hwhole : 64 * ((m ++ [b]).length / 64) = (m ++ [b]).length := by omega
      rw [hblock hlast, hwhole, List.take_length]
    · have hsame : (m ++ [b]).length / 64 = m.length / 64 := by omega
      rw [absorbByte_h, hpending, if_neg hlast, hh, hsame, List.take_append_of_le_length (Nat.mul_div_le ..)]
  · have hsame : (m ++ [b]).length / 64 = m.length / 64 := by omega
    simp only [hsame]
    exact hcells j (by omega) (by omega)

/-- What FINAL leaves in H: the tail completes the padded message (R95). -/
theorem finalHash_eq_chainFrom_tail (s : State) :
    finalHash s = chainFrom s.h (tail (pending s.len) s.buf.toList s.len) := by
  have hlen := tail_length_eq (buf := s.buf.toList) (pending_lt s.len)
    (by rw [Vector.length_toList]; exact (pending_lt s.len).le) s.len
  rw [finalHash_eq]
  split_ifs with htwo
  · rw [chainFrom_two_blocks _ (hlen.trans (if_neg (by omega)))]
  · rw [chainFrom_one_block _ (hlen.trans (if_pos (by omega)))]

theorem Absorbed.finalHash {m : Message} (h : Absorbed m.bytes s) : finalHash s = chain (pad m) := by
  have hpending := h.pending_eq
  obtain ⟨-, -, hlen, hh, hbuf⟩ := h
  have hpad : pad m = m.bytes.take (64 * (m.bytes.length / 64)) ++
      tail (m.bytes.length % 64) s.buf.toList s.len := by
    refine pad_eq_take_append_tail hlen fun j hj => ?_
    rw [List.getElem?_eq_getElem (by rw [Vector.length_toList]; omega), List.getElem?_eq_getElem (by omega),
      Vector.getElem_toList, hbuf j hj]
  rw [finalHash_eq_chainFrom_tail, hpending, hpad, chain_append (take_whole_blocks_length_mod _), hh]

/-- ABSORB is accepted below the largest length and answers 0x0400. -/
theorem exec_absorb_absorbed (h : Absorbed m s) (b : Byte) (hlen : m.length < 2 ^ 61 - 1) :
    ∃ t, exec (.absorb b) s = .next t ∧ Absorbed (m ++ [b]) t ∧ t.host = s.host ∧ t.rsps = s.rsps ++ [0x0400] := by
  have hnext := h.absorbByte b hlen
  obtain ⟨hphase, hcause, hs, -, -⟩ := h
  refine ⟨_, exec_absorb b hphase (by omega), hnext, rfl, ?_⟩
  rw [respond_rsps, absorbByte_rsps, absorbByte_cause, absorbByte_phase, responseWord_accepted_absorbing hcause hphase]

/-- FINAL is accepted, answers 0x0800 and leaves the digest (R155). -/
theorem exec_final_absorbed {m : Message} (h : Absorbed m.bytes s) :
    ∃ t, exec .final s = .next t ∧ t.phase = .done ∧ t.cause = .none ∧ t.host = s.host ∧ t.digest = digestOf m ∧
      t.rsps = s.rsps ++ [0x0800] := by
  have hhash := h.finalHash
  obtain ⟨hphase, hcause, -, -, -⟩ := h
  refine ⟨_, exec_final hphase, rfl, hcause, rfl, congrArg serialize hhash, ?_⟩
  rw [respond_rsps, finish_rsps, finish_cause, finish_phase, responseWord_accepted_done hcause rfl]

end Absorbed

/-- Settles O55: `absorbed_startComputation`, `Absorbed.absorbByte`, and STATUS only responds. -/
theorem absorbedBytesInvariant : Obligations.AbsorbedBytesInvariant := by
  unfold Obligations.AbsorbedBytesInvariant
  refine ⟨fun s => ⟨_, exec_of_accepted (firstFailure_init s), absorbed_startComputation s⟩, fun m b s h hlen => ?_,
    fun m s h => ⟨_, exec_status s, h⟩⟩
  obtain ⟨t, hexec, ht, -, -⟩ := exec_absorb_absorbed h b hlen
  exact ⟨t, hexec, ht⟩

/-! ### A host program -/

theorem step_of_issued {s : State} {i : Instr} {is : List Instr} {rest : List HostAction}
    (hhost : s.host = issue (i :: is) ++ rest) (hwf : WellFormed i = true) :
    step s = exec i { s with host := issue is ++ rest } :=
  step_of_instr hhost (decode_encode hwf)

theorem runSteps_add {a : Nat} {s t : State} (h : runSteps a s = .next t) (b : Nat) :
    runSteps (a + b) s = runSteps b t := by
  induction a generalizing s with
  | zero =>
    cases h
    rw [Nat.zero_add]
  | succ a ih =>
    obtain ⟨u, hu⟩ := step_answers_next s
    rw [runSteps_succ hu] at h
    rw [Nat.succ_add, runSteps_succ hu, ih h]

/-- The ABSORBs of `bs`, one step each. -/
theorem run_absorbs (bs : List Byte) {m : List Byte} {s : State} {rest : List HostAction} (h : Absorbed m s)
    (hhost : s.host = issue (bs.map .absorb) ++ rest) (hbound : m.length + bs.length < 2 ^ 61) :
    ∃ t, runSteps bs.length s = .next t ∧ Absorbed (m ++ bs) t ∧ t.host = rest ∧
      t.rsps = s.rsps ++ List.replicate bs.length 0x0400 := by
  induction bs generalizing m s with
  | nil => exact ⟨s, rfl, by simpa using h, hhost, by simp⟩
  | cons b bs ih =>
    rw [List.length_cons] at hbound
    obtain ⟨u, hexec, hu, huhost, hursps⟩ :=
      exec_absorb_absorbed (s := { s with host := issue (bs.map .absorb) ++ rest }) h b (by omega)
    obtain ⟨t, hrun, ht, hthost, htrsps⟩ := ih hu huhost (by simp; omega)
    refine ⟨t, (runSteps_succ ((step_of_issued hhost rfl).trans hexec)).trans hrun, ?_, hthost, ?_⟩
    · rwa [List.append_assoc, List.singleton_append] at ht
    · rw [htrsps, hursps, List.append_assoc, List.singleton_append, List.length_cons, List.replicate_succ]

/-- INIT, the ABSORBs of a message and FINAL, from any state: every answer is an acceptance, and the digest is there. -/
theorem run_digestCommands (m : Message) {s : State} {rest : List HostAction}
    (hhost : s.host = issue (digestCommands m.bytes) ++ rest) :
    ∃ t, runSteps (m.bytes.length + 2) s = .next t ∧ t.phase = .done ∧ t.cause = .none ∧ t.host = rest ∧
      t.digest = digestOf m ∧ t.rsps = s.rsps ++ List.replicate (m.bytes.length + 1) 0x0400 ++ [0x0800] := by
  have hopen : s.host = issue (.init :: (m.bytes.map .absorb ++ [.final])) ++ rest := hhost
  have hinit := (step_of_issued hopen rfl).trans (exec_init _)
  obtain ⟨u, habsorbs, hu, huhost, hursps⟩ := run_absorbs m.bytes (m := []) (rest := issue [.final] ++ rest)
    (s := { startComputation s with
      host := issue (m.bytes.map .absorb ++ [.final]) ++ rest, rsps := s.rsps ++ [0x0400] })
    (absorbed_startComputation s) (by simp [issue]) (by simpa using m.bounded)
  obtain ⟨t, hfinal, hphase, hcause, hthost, hdigest, htrsps⟩ :=
    exec_final_absorbed (s := { u with host := issue [] ++ rest }) (m := m) hu
  have hlast := (step_of_issued huhost rfl).trans hfinal
  refine ⟨t, ?_, hphase, hcause, hthost, hdigest, ?_⟩
  · calc runSteps (m.bytes.length + 2) s
        = runSteps (m.bytes.length + 1) _ := runSteps_succ hinit
      _ = runSteps 1 u := runSteps_add habsorbs 1
      _ = .next t := runSteps_succ hlast
  · rw [htrsps, hursps, List.append_assoc s.rsps, List.singleton_append, ← List.replicate_succ]

/-- Settles O56: `run_digestCommands`, and a READ of the digest that it leaves. -/
theorem commandsComputeDigest : Obligations.CommandsComputeDigest := by
  unfold Obligations.CommandsComputeDigest
  intro m s rest hhost
  obtain ⟨t, hrun, hphase, hcause, hthost, hdigest, hrsps⟩ := run_digestCommands m hhost
  refine ⟨t, hrun, hphase, hthost, hdigest, hrsps, fun i hi => ⟨_, exec_read hphase hi, ?_⟩⟩
  rw [respond_rsps, hphase, hcause]
  simp only [hdigest]
  rfl

/-! ### The MAC as a host program -/

theorem mac_eq_digestOf {k m : List Byte} (bounded : k.length + m.length < 2 ^ 61) {km : Message}
    (hkm : km.bytes = k ++ m) : mac k m bounded = digestOf km := by
  cases km
  cases hkm
  rfl

/-- The key and the message, absorbed with nothing between them, are one message (R162). -/
theorem issue_mac_eq (k m : List Byte) :
    [.init] ++ k.map .absorb ++ m.map .absorb ++ [.final] = digestCommands (k ++ m) := by
  simp [digestCommands]

/-- Settles O57: the host program is that of the one message k ++ m. -/
theorem macByConcatenation : Obligations.MacByConcatenation := by
  unfold Obligations.MacByConcatenation
  refine ⟨fun k m bounded s rest hhost => ?_, fun _ _ bounded _ => mac_eq_digestOf bounded, fun m => ⟨?_, ?_⟩⟩
  · rw [issue_mac_eq] at hhost
    have bounded' : (k ++ m).length < 2 ^ 61 := by rwa [List.length_append]
    obtain ⟨t, hrun, hphase, -, hthost, hdigest, -⟩ := run_digestCommands ⟨k ++ m, bounded'⟩ hhost
    rw [List.length_append] at hrun
    exact ⟨t, hrun, hphase, hthost, hdigest⟩
  · exact mac_eq_digestOf _ rfl
  · exact mac_eq_digestOf _ (List.append_nil _).symm

end Sys2Proof.Machine
